-- ==== Sys2Proof/Word.lean ====
section
/-! DEFINITION. The value types of the block (00_scope.md R5, R8, R11): address, byte, page, offset,
slot identifier, effective slot, variant and location. -/

namespace Sys2Proof

/-- A byte (R11): the value of a write (30 R88). -/
abbrev Byte := BitVec 8

/-- A CPU address (R11, 20 R50): every 16-bit value is valid. -/
abbrev Addr := BitVec 16

/-- A page index, the 2-bit field `a[15:14]` (30 R80). -/
abbrev Page := BitVec 2

/-- A page offset, the 14-bit field `a[13:0]` (30 R80). -/
abbrev Off14 := BitVec 14

/-- A SlotId (10 R22): "secondary slot index (0–3, meaningful only if expanded), primary slot index". -/
structure SlotId where
  expanded  : Bool
  secondary : BitVec 2
  primary   : BitVec 2
  deriving DecidableEq, Repr, Inhabited

/-- An effective SlotId (R11, 10 R23): the secondary index is dropped when it is not meaningful. -/
structure EffSlot where
  primary   : BitVec 2
  secondary : Option (BitVec 2)
  deriving DecidableEq, Repr, Inhabited

/-- The seven names of the variant enum (R11), in the order of their codes 0 to 6 (30 R87). -/
inductive Variant where
  | noMapper | konami | konamiSCC | ascii8 | ascii16 | gameMaster2 | fmpac
  deriving DecidableEq, Repr, Inhabited

/-- The four variants a MapperState can have (10 R28). -/
inductive Mapper where
  | konami | konamiSCC | ascii8 | ascii16
  deriving DecidableEq, Repr, Inhabited

/-- A location, the output of translation (R11, 20 R51). -/
inductive Loc where
  /-- A byte of the ROM image of a registered mapper slot (20 R52). -/
  | rom (slot : EffSlot) (offset : Nat)
  /-- A register of the SCC block of a KonamiSCC slot, offset in [0, 0x3FF] (20 R54). -/
  | scc (slot : EffSlot) (offset : BitVec 10)
  /-- A byte of the store behind `(slot, page)`, for a slot with no mapper (20 R53). -/
  | plain (slot : EffSlot) (page : Page) (offset : Off14)
  /-- An address of a mapper slot outside its cartridge area (20 R55). -/
  | unmapped (slot : EffSlot) (page : Page) (offset : Off14)
  deriving DecidableEq, Repr, Inhabited

/-- The two modes of the parameter `CTRL_DECODE` (00 R6, 30 R89). -/
inductive CtrlDecode where
  | exact | range
  deriving DecidableEq, Repr, Inhabited

end Sys2Proof
end

