-- ==== Sys2Proof/Config.lean ====
section
/-! DEFINITION. The parameters that 00_scope.md R6 leaves OPEN, as constants with no body: no proof can
see a value of theirs, so a statement holds for every value. `CTRL_DECODE` is a field of State and
`EXPANDED` the operand of RESET. -/

namespace Sys2Proof

/-- `INIT_BANKS` (00 R6, 92 D17) before its reduction into [0, bank_count): variant, register index and
bank count. FREE VALUE, log entry 6. -/
opaque Config.initBanks : Mapper → Nat → Nat → Nat

/-- `ROM_IMAGE` (00 R6, 20 R52): byte `offset` of the image behind a slot, after so many registrations there.
FREE VALUE, log entry 8. -/
opaque Config.romImage : (slot : EffSlot) → (registrations : Nat) → (offset : Nat) → Byte

/-- The byte a read draws from `BACKING`, `SCC_DEVICE` or an Unmapped location (20 R53, R54, R55), the
`n`-th draw of the run. FREE VALUE, log entry 7. -/
opaque Config.draw : (n : Nat) → Byte

end Sys2Proof
end

