-- ==== Sys2Proof/Syntax.lean ====
section
/-! DEFINITION. The instructions: one constructor per row of spec/opcode_table.json, in the table's order,
and the records they are written in. -/

namespace Sys2Proof

/-- The rows of the opcode table. The first ten are the transactions (30 R90). The others are the
decodings of a WRITE at a control address (30 R89), of an access to the SCC region (43 R176, R177) and of
a window read (30 R84, R85); their `slot` is the slot operand of that WRITE or TRANSLATE, and their `off`
is the part of the CPU address that the row leaves open. -/
inductive Instr where
  /-- RESOLVE (40 R110) -/
  | resolve (addr : Addr)
  /-- SELECT (40 R111) -/
  | select (page : Page) (slot : SlotId)
  /-- ISEXP (40 R112) -/
  | isExp (primary : BitVec 2)
  /-- REGISTER (41 R131); `none` is the code 7, which names no variant (30 R87) -/
  | register (slot : SlotId) (variant : Option Variant) (romSize : Nat)
  /-- UNREGISTER (41 R132) -/
  | unregister (slot : SlotId)
  /-- WRITE (41 R133) -/
  | write (slot : SlotId) (addr : Addr) (value : Byte)
  /-- TRANSLATE (41 R137) -/
  | translate (slot : SlotId) (page : Page) (offset : Off14)
  /-- BUSREAD (46 R205) -/
  | busRead (addr : Addr)
  /-- BUSWRITE (46 R206) -/
  | busWrite (addr : Addr) (value : Byte)
  /-- RESET (70 R240): bit p of `exp` is EXPANDED[p] -/
  | reset (exp : BitVec 4)
  /-- KONAMI.SEL1 (42 R162) -/
  | konamiSel1 (slot : SlotId) (off : BitVec 13) (value : Byte)
  /-- KONAMI.SEL2 (42 R163) -/
  | konamiSel2 (slot : SlotId) (off : BitVec 13) (value : Byte)
  /-- KONAMI.SEL3 (42 R164) -/
  | konamiSel3 (slot : SlotId) (off : BitVec 13) (value : Byte)
  /-- SCC.SEL0 (43 R171) -/
  | sccSel0 (slot : SlotId) (off : BitVec 11) (value : Byte)
  /-- SCC.SEL1 (43 R172) -/
  | sccSel1 (slot : SlotId) (off : BitVec 11) (value : Byte)
  /-- SCC.SEL2 (43 R173): `value` is not 0x3F -/
  | sccSel2 (slot : SlotId) (off : BitVec 11) (value : Byte)
  /-- SCC.SCCON (43 R174): the value written is 0x3F -/
  | sccSccOn (slot : SlotId) (off : BitVec 11)
  /-- SCC.SEL3 (43 R175) -/
  | sccSel3 (slot : SlotId) (off : BitVec 11) (value : Byte)
  /-- ASCII8.SEL0 (44 R186) -/
  | ascii8Sel0 (slot : SlotId) (off : BitVec 11) (value : Byte)
  /-- ASCII8.SEL1 (44 R187) -/
  | ascii8Sel1 (slot : SlotId) (off : BitVec 11) (value : Byte)
  /-- ASCII8.SEL2 (44 R188) -/
  | ascii8Sel2 (slot : SlotId) (off : BitVec 11) (value : Byte)
  /-- ASCII8.SEL3 (44 R189) -/
  | ascii8Sel3 (slot : SlotId) (off : BitVec 11) (value : Byte)
  /-- ASCII16.SEL0 (45 R196) -/
  | ascii16Sel0 (slot : SlotId) (off : BitVec 11) (value : Byte)
  /-- ASCII16.SEL1 (45 R197) -/
  | ascii16Sel1 (slot : SlotId) (off : BitVec 11) (value : Byte)
  /-- SCC.REGION_READ (43 R176) -/
  | sccRegionRead (slot : SlotId) (off : BitVec 10)
  /-- SCC.REGION_WRITE (43 R177) -/
  | sccRegionWrite (slot : SlotId) (off : BitVec 10) (value : Byte)
  /-- KONAMI.WIN0_READ (42 R161, R165) -/
  | konamiWin0Read (slot : SlotId) (off : BitVec 13)
  /-- KONAMI.WIN1_READ (42 R165) -/
  | konamiWin1Read (slot : SlotId) (off : BitVec 13)
  /-- KONAMI.WIN2_READ (42 R165) -/
  | konamiWin2Read (slot : SlotId) (off : BitVec 13)
  /-- KONAMI.WIN3_READ (42 R165) -/
  | konamiWin3Read (slot : SlotId) (off : BitVec 13)
  /-- SCC.WIN0_READ (43 R176) -/
  | sccWin0Read (slot : SlotId) (off : BitVec 13)
  /-- SCC.WIN1_READ (43 R176) -/
  | sccWin1Read (slot : SlotId) (off : BitVec 13)
  /-- SCC.WIN2_READ (43 R176) -/
  | sccWin2Read (slot : SlotId) (off : BitVec 13)
  /-- SCC.WIN3_READ (43 R176) -/
  | sccWin3Read (slot : SlotId) (off : BitVec 13)
  /-- ASCII8.WIN0_READ (44 R190) -/
  | ascii8Win0Read (slot : SlotId) (off : BitVec 13)
  /-- ASCII8.WIN1_READ (44 R190) -/
  | ascii8Win1Read (slot : SlotId) (off : BitVec 13)
  /-- ASCII8.WIN2_READ (44 R190) -/
  | ascii8Win2Read (slot : SlotId) (off : BitVec 13)
  /-- ASCII8.WIN3_READ (44 R190) -/
  | ascii8Win3Read (slot : SlotId) (off : BitVec 13)
  /-- ASCII16.WIN0_READ (45 R198) -/
  | ascii16Win0Read (slot : SlotId) (off : BitVec 14)
  /-- ASCII16.WIN1_READ (45 R198) -/
  | ascii16Win1Read (slot : SlotId) (off : BitVec 14)
  deriving DecidableEq, Repr

/-- The `format` column of the opcode table. -/
inductive Format where
  | txn | ctrlWrite | sccAccess | winRead
  deriving DecidableEq, Repr, Inhabited

/-- An undecoded record: its format, and its bits as one number, bit 0 the least significant, as the
opcode table numbers them. `rom_size` is unbounded (00 R7), so the number is. DESIGN CHOICE, log entry 2. -/
structure Record where
  format : Format
  bits   : Nat
  deriving DecidableEq, Repr, Inhabited

end Sys2Proof
end

