-- ==== Sys2Proof/WellFormed.lean ====
section
/-! DEFINITION. Which instructions can be written down. "Field values wider than their field cannot be
written down, because the fields are typed" (30 R92), so one check is left: the value condition of
SCC.SEL2 (43 R173). -/

namespace Sys2Proof

/-- An instruction the encoder can write: the value of SCC.SEL2 is not 0x3F (43 R173; that word is
SCC.SCCON's). -/
def Instr.wellFormed : Instr → Bool
  | .sccSel2 _ _ value => value ≠ 0x3F#8
  | _ => true

end Sys2Proof
end

