-- ==== Sys2Proof/Decode.lean ====
section
/-! DEFINITION. Decoding a record, total on every number of bits, and the encoder beside it; the
control-address table they share with the machine (30_encoding.md). -/

namespace Sys2Proof

/-- Why a record is no instruction. -/
inductive Reject where
  /-- Kinds 10 to 15 name no transaction (30 R90, R92). -/
  | unusedKind (kind : Nat)
  /-- The record has a bit set above its last field: "Field values wider than their field cannot be
  written down" (30 R92). -/
  | tooWide
  /-- The address (and variant code) of the record is no row of the table. -/
  | noRow
  deriving DecidableEq, Repr, Inhabited

/-! ## Fields, from bit 0 up -/

/-- The low `n` bits of a record, and the bits above them. -/
def takeBits (n w : Nat) : BitVec n × Nat := (BitVec.ofNat n w, w / 2 ^ n)

/-- A field of `n` bits below the bits `rest`. -/
def putBits {n : Nat} (field : BitVec n) (rest : Nat) : Nat := field.toNat + 2 ^ n * rest

/-- SLOTID8 on input (30 R82, R83): bits 6..4 are ignored. -/
def SlotId.ofByte (b : Byte) : SlotId :=
  { expanded := b.getLsbD 7, secondary := b.extractLsb' 2 2, primary := b.extractLsb' 0 2 }

/-- SLOTID8 of a stored SlotId (30 R82), its reserved bits 0. -/
def SlotId.toByte (s : SlotId) : Byte :=
  BitVec.ofBool s.expanded ++ 0#3 ++ s.secondary ++ s.primary

/-- The name of a variant code; code 7 names no variant (30 R87). -/
def Variant.ofCode (c : BitVec 3) : Option Variant :=
  match c.toNat with
  | 0 => some .noMapper
  | 1 => some .konami
  | 2 => some .konamiSCC
  | 3 => some .ascii8
  | 4 => some .ascii16
  | 5 => some .gameMaster2
  | 6 => some .fmpac
  | _ => none

/-- The code of a variant (30 R87); `none` is the code 7. -/
def Variant.toCode : Option Variant → BitVec 3
  | some .noMapper => 0
  | some .konami => 1
  | some .konamiSCC => 2
  | some .ascii8 => 3
  | some .ascii16 => 4
  | some .gameMaster2 => 5
  | some .fmpac => 6
  | none => 7

/-- The four variants that can be registered (30 R87, 41 R131). -/
def Variant.mapper? : Variant → Option Mapper
  | .konami => some .konami
  | .konamiSCC => some .konamiSCC
  | .ascii8 => some .ascii8
  | .ascii16 => some .ascii16
  | .noMapper | .gameMaster2 | .fmpac => none

/-- The variant that a registered mapper has (10 R28). -/
def Mapper.variant : Mapper → Variant
  | .konami => .konami
  | .konamiSCC => .konamiSCC
  | .ascii8 => .ascii8
  | .ascii16 => .ascii16

/-! ## Addresses -/

/-- The address in one of the eight 8 KB regions of the space, `a[15:13] = region` (30 R84). -/
def regionAddr (region : BitVec 3) (off : BitVec 13) : Addr := region ++ off

/-- The address in one of the 32 blocks of 2 KB that the RANGE mask 0xF800 leaves whole (30 R89). -/
def blockAddr (block : BitVec 5) (off : BitVec 11) : Addr := block ++ off

/-- The address rebuilt from its fields, `{page, page_offset}` (30 R81). -/
def pageAddr (page : Page) (offset : Off14) : Addr := page ++ offset

/-- The address in the SCC region, 0x9800 to 0x9BFF (20 R63). -/
def sccRegionAddr (off : BitVec 10) : Addr := 0b100110#6 ++ off

/-- `0x9800 <= addr <= 0x9BFF` (20 R63, 41 R133). -/
def inSccRegion (a : Addr) : Bool := 0x9800#16 ≤ a && a ≤ 0x9BFF#16

/-- One entry of the control-address decode table (30 R89). -/
structure CtrlEntry where
  mapper : Mapper
  reg    : Nat
  base   : Addr
  mask   : Addr
  deriving DecidableEq, Repr

/-- The control-address decode table of 30 R89, in its order. -/
def ctrlTable : List CtrlEntry := [
  ⟨.konami, 1, 0x6000, 0xE000⟩,
  ⟨.konami, 2, 0x8000, 0xE000⟩,
  ⟨.konami, 3, 0xA000, 0xE000⟩,
  ⟨.konamiSCC, 0, 0x5000, 0xF800⟩,
  ⟨.konamiSCC, 1, 0x7000, 0xF800⟩,
  ⟨.konamiSCC, 2, 0x9000, 0xF800⟩,
  ⟨.konamiSCC, 3, 0xB000, 0xF800⟩,
  ⟨.ascii8, 0, 0x6000, 0xF800⟩,
  ⟨.ascii8, 1, 0x6800, 0xF800⟩,
  ⟨.ascii8, 2, 0x7000, 0xF800⟩,
  ⟨.ascii8, 3, 0x7800, 0xF800⟩,
  ⟨.ascii16, 0, 0x6000, 0xF800⟩,
  ⟨.ascii16, 1, 0x7000, 0xF800⟩]

/-- How an address is matched to an entry in each mode (30 R89). -/
def CtrlEntry.covers (e : CtrlEntry) : CtrlDecode → Addr → Bool
  | .exact, a => a == e.base
  | .range, a => a &&& e.mask == e.base

/-- `decode(variant, a)` (30 R89): `some i` is `Reg(i)`, `none` is `Ordinary`. -/
def decodeCtrl (mode : CtrlDecode) (m : Mapper) (a : Addr) : Option Nat :=
  (ctrlTable.find? fun e => e.mapper == m && e.covers mode a).map CtrlEntry.reg

/-! ## Rows: the decodings of a WRITE or a read against a named variant -/

/-- The control-write row of register `reg` of a variant; at KonamiSCC register 2 the value tells SCCON
from SEL2 (43 R173, R174). -/
def ctrlRowInstr (m : Mapper) (reg : Nat) (slot : SlotId) (a : Addr) (value : Byte) : Option Instr :=
  match m, reg with
  | .konami, 1 => some (.konamiSel1 slot (a.extractLsb' 0 13) value)
  | .konami, 2 => some (.konamiSel2 slot (a.extractLsb' 0 13) value)
  | .konami, 3 => some (.konamiSel3 slot (a.extractLsb' 0 13) value)
  | .konamiSCC, 0 => some (.sccSel0 slot (a.extractLsb' 0 11) value)
  | .konamiSCC, 1 => some (.sccSel1 slot (a.extractLsb' 0 11) value)
  | .konamiSCC, 2 =>
    if value = 0x3F#8 then some (.sccSccOn slot (a.extractLsb' 0 11))
    else some (.sccSel2 slot (a.extractLsb' 0 11) value)
  | .konamiSCC, 3 => some (.sccSel3 slot (a.extractLsb' 0 11) value)
  | .ascii8, 0 => some (.ascii8Sel0 slot (a.extractLsb' 0 11) value)
  | .ascii8, 1 => some (.ascii8Sel1 slot (a.extractLsb' 0 11) value)
  | .ascii8, 2 => some (.ascii8Sel2 slot (a.extractLsb' 0 11) value)
  | .ascii8, 3 => some (.ascii8Sel3 slot (a.extractLsb' 0 11) value)
  | .ascii16, 0 => some (.ascii16Sel0 slot (a.extractLsb' 0 11) value)
  | .ascii16, 1 => some (.ascii16Sel1 slot (a.extractLsb' 0 11) value)
  | _, _ => none

/-- `region = a[15:13]` (30 R84). -/
def regionOf (a : Addr) : Nat := (a.extractLsb' 13 3).toNat

/-- The window-read row of a variant at an address `a` of the given region (30 R84, R85). -/
def winRowInstr (m : Mapper) (region : Nat) (slot : SlotId) (a : Addr) : Option Instr :=
  match m, region with
  | .konami, 2 => some (.konamiWin0Read slot (a.extractLsb' 0 13))
  | .konami, 3 => some (.konamiWin1Read slot (a.extractLsb' 0 13))
  | .konami, 4 => some (.konamiWin2Read slot (a.extractLsb' 0 13))
  | .konami, 5 => some (.konamiWin3Read slot (a.extractLsb' 0 13))
  | .konamiSCC, 2 => some (.sccWin0Read slot (a.extractLsb' 0 13))
  | .konamiSCC, 3 => some (.sccWin1Read slot (a.extractLsb' 0 13))
  | .konamiSCC, 4 => some (.sccWin2Read slot (a.extractLsb' 0 13))
  | .konamiSCC, 5 => some (.sccWin3Read slot (a.extractLsb' 0 13))
  | .ascii8, 2 => some (.ascii8Win0Read slot (a.extractLsb' 0 13))
  | .ascii8, 3 => some (.ascii8Win1Read slot (a.extractLsb' 0 13))
  | .ascii8, 4 => some (.ascii8Win2Read slot (a.extractLsb' 0 13))
  | .ascii8, 5 => some (.ascii8Win3Read slot (a.extractLsb' 0 13))
  | .ascii16, 2 | .ascii16, 3 => some (.ascii16Win0Read slot (a.extractLsb' 0 14))
  | .ascii16, 4 | .ascii16, 5 => some (.ascii16Win1Read slot (a.extractLsb' 0 14))
  | _, _ => none

/-- The control-address entry a row record names. Codes 1 to 4 name a variant (30 R87), matched over its
whole RANGE block. Code 0 names none: the record is then the first row of the opcode table whose own
match and mask (EXACT) it meets. DESIGN CHOICE, log entry 3. -/
def ctrlEntryOf (code : BitVec 3) (a : Addr) : Option CtrlEntry :=
  if code = 0#3 then ctrlTable.find? fun e => e.covers .exact a
  else
    match (Variant.ofCode code).bind Variant.mapper? with
    | none => none
    | some m => ctrlTable.find? fun e => e.mapper == m && e.covers .range a

/-- The variant of a window-read record; code 0 names none, and the table's first window rows are
Konami's. DESIGN CHOICE, log entry 3. -/
def winMapperOf (code : BitVec 3) : Option Mapper :=
  if code = 0#3 then some .konami else (Variant.ofCode code).bind Variant.mapper?

/-! ## The decoder -/

/-- A record whose fields are all read: nothing may stand above them (30 R92). -/
def finishRecord (rest : Nat) (i : Instr) : Except Reject Instr :=
  if rest = 0 then .ok i else .error .tooWide

/-- A transaction: kind in bits 3..0, then the fields of 30 R90 in their order. The last field of
REGISTER, `rom_size`, takes all the bits that are left. -/
def decodeTxn (w : Nat) : Except Reject Instr :=
  let (kind, w) := takeBits 4 w
  match kind.toNat with
  | 0 =>
    let (addr, w) := takeBits 16 w
    finishRecord w (.resolve addr)
  | 1 =>
    let (page, w) := takeBits 2 w
    let (slot, w) := takeBits 8 w
    finishRecord w (.select page (SlotId.ofByte slot))
  | 2 =>
    let (primary, w) := takeBits 2 w
    finishRecord w (.isExp primary)
  | 3 =>
    let (slot, w) := takeBits 8 w
    let (code, w) := takeBits 3 w
    .ok (.register (SlotId.ofByte slot) (Variant.ofCode code) w)
  | 4 =>
    let (slot, w) := takeBits 8 w
    finishRecord w (.unregister (SlotId.ofByte slot))
  | 5 =>
    let (slot, w) := takeBits 8 w
    let (addr, w) := takeBits 16 w
    let (value, w) := takeBits 8 w
    finishRecord w (.write (SlotId.ofByte slot) addr value)
  | 6 =>
    let (slot, w) := takeBits 8 w
    let (page, w) := takeBits 2 w
    let (offset, w) := takeBits 14 w
    finishRecord w (.translate (SlotId.ofByte slot) page offset)
  | 7 =>
    let (addr, w) := takeBits 16 w
    finishRecord w (.busRead addr)
  | 8 =>
    let (addr, w) := takeBits 16 w
    let (value, w) := takeBits 8 w
    finishRecord w (.busWrite addr value)
  | 9 =>
    let (exp, w) := takeBits 4 w
    finishRecord w (.reset exp)
  | k => .error (.unusedKind k)

/-- A control write: addr 16, variant code 3, slot 8, value 8. DESIGN CHOICE, log entry 2. -/
def decodeCtrlWrite (w : Nat) : Except Reject Instr :=
  let (addr, w) := takeBits 16 w
  let (code, w) := takeBits 3 w
  let (slot, w) := takeBits 8 w
  let (value, w) := takeBits 8 w
  match ctrlEntryOf code addr with
  | none => .error .noRow
  | some e =>
    match ctrlRowInstr e.mapper e.reg (SlotId.ofByte slot) addr value with
    | none => .error .noRow
    | some i => finishRecord w i

/-- An SCC access: addr 16, direction 1 (1 is a write), slot 8, and for a write value 8.
DESIGN CHOICE, log entry 2. -/
def decodeSccAccess (w : Nat) : Except Reject Instr :=
  let (addr, w) := takeBits 16 w
  let (dir, w) := takeBits 1 w
  let (slot, w) := takeBits 8 w
  if addr &&& 0xFC00#16 = 0x9800#16 then
    if dir = 1#1 then
      let (value, w) := takeBits 8 w
      finishRecord w (.sccRegionWrite (SlotId.ofByte slot) (addr.extractLsb' 0 10) value)
    else finishRecord w (.sccRegionRead (SlotId.ofByte slot) (addr.extractLsb' 0 10))
  else .error .noRow

/-- A window read: addr 16, variant code 3, slot 8. DESIGN CHOICE, log entry 2. -/
def decodeWinRead (w : Nat) : Except Reject Instr :=
  let (addr, w) := takeBits 16 w
  let (code, w) := takeBits 3 w
  let (slot, w) := takeBits 8 w
  match (winMapperOf code).bind fun m => winRowInstr m (regionOf addr) (SlotId.ofByte slot) addr with
  | none => .error .noRow
  | some i => finishRecord w i

/-- The instruction of a record, or why it is none. Total. -/
def decode (r : Record) : Except Reject Instr :=
  match r.format with
  | .txn => decodeTxn r.bits
  | .ctrlWrite => decodeCtrlWrite r.bits
  | .sccAccess => decodeSccAccess r.bits
  | .winRead => decodeWinRead r.bits

/-! ## The encoder -/

/-- The record of a control write of a variant. -/
def ctrlRecord (m : Mapper) (addr : Addr) (slot : SlotId) (value : Byte) : Record :=
  ⟨.ctrlWrite, putBits addr (putBits (Variant.toCode (some m.variant)) (putBits slot.toByte (putBits value 0)))⟩

/-- The record of a window read of a variant. -/
def winRecord (m : Mapper) (addr : Addr) (slot : SlotId) : Record :=
  ⟨.winRead, putBits addr (putBits (Variant.toCode (some m.variant)) (putBits slot.toByte 0))⟩

/-- The record of a transaction of a kind (30 R90), with its fields' bits. -/
def txnRecord (kind : BitVec 4) (fields : Nat) : Record := ⟨.txn, putBits kind fields⟩

/-- The record of an instruction, written from the same tables as the decoder (30 R89, R90). -/
def encode : Instr → Record
  | .resolve addr => txnRecord 0 (putBits addr 0)
  | .select page slot => txnRecord 1 (putBits page (putBits slot.toByte 0))
  | .isExp primary => txnRecord 2 (putBits primary 0)
  | .register slot variant romSize =>
    txnRecord 3 (putBits slot.toByte (putBits (Variant.toCode variant) romSize))
  | .unregister slot => txnRecord 4 (putBits slot.toByte 0)
  | .write slot addr value => txnRecord 5 (putBits slot.toByte (putBits addr (putBits value 0)))
  | .translate slot page offset => txnRecord 6 (putBits slot.toByte (putBits page (putBits offset 0)))
  | .busRead addr => txnRecord 7 (putBits addr 0)
  | .busWrite addr value => txnRecord 8 (putBits addr (putBits value 0))
  | .reset exp => txnRecord 9 (putBits exp 0)
  | .konamiSel1 slot off value => ctrlRecord .konami (regionAddr 3 off) slot value
  | .konamiSel2 slot off value => ctrlRecord .konami (regionAddr 4 off) slot value
  | .konamiSel3 slot off value => ctrlRecord .konami (regionAddr 5 off) slot value
  | .sccSel0 slot off value => ctrlRecord .konamiSCC (blockAddr 0b01010 off) slot value
  | .sccSel1 slot off value => ctrlRecord .konamiSCC (blockAddr 0b01110 off) slot value
  | .sccSel2 slot off value => ctrlRecord .konamiSCC (blockAddr 0b10010 off) slot value
  | .sccSccOn slot off => ctrlRecord .konamiSCC (blockAddr 0b10010 off) slot 0x3F
  | .sccSel3 slot off value => ctrlRecord .konamiSCC (blockAddr 0b10110 off) slot value
  | .ascii8Sel0 slot off value => ctrlRecord .ascii8 (blockAddr 0b01100 off) slot value
  | .ascii8Sel1 slot off value => ctrlRecord .ascii8 (blockAddr 0b01101 off) slot value
  | .ascii8Sel2 slot off value => ctrlRecord .ascii8 (blockAddr 0b01110 off) slot value
  | .ascii8Sel3 slot off value => ctrlRecord .ascii8 (blockAddr 0b01111 off) slot value
  | .ascii16Sel0 slot off value => ctrlRecord .ascii16 (blockAddr 0b01100 off) slot value
  | .ascii16Sel1 slot off value => ctrlRecord .ascii16 (blockAddr 0b01110 off) slot value
  | .sccRegionRead slot off =>
    ⟨.sccAccess, putBits (sccRegionAddr off) (putBits 0#1 (putBits slot.toByte 0))⟩
  | .sccRegionWrite slot off value =>
    ⟨.sccAccess, putBits (sccRegionAddr off) (putBits 1#1 (putBits slot.toByte (putBits value 0)))⟩
  | .konamiWin0Read slot off => winRecord .konami (regionAddr 2 off) slot
  | .konamiWin1Read slot off => winRecord .konami (regionAddr 3 off) slot
  | .konamiWin2Read slot off => winRecord .konami (regionAddr 4 off) slot
  | .konamiWin3Read slot off => winRecord .konami (regionAddr 5 off) slot
  | .sccWin0Read slot off => winRecord .konamiSCC (regionAddr 2 off) slot
  | .sccWin1Read slot off => winRecord .konamiSCC (regionAddr 3 off) slot
  | .sccWin2Read slot off => winRecord .konamiSCC (regionAddr 4 off) slot
  | .sccWin3Read slot off => winRecord .konamiSCC (regionAddr 5 off) slot
  | .ascii8Win0Read slot off => winRecord .ascii8 (regionAddr 2 off) slot
  | .ascii8Win1Read slot off => winRecord .ascii8 (regionAddr 3 off) slot
  | .ascii8Win2Read slot off => winRecord .ascii8 (regionAddr 4 off) slot
  | .ascii8Win3Read slot off => winRecord .ascii8 (regionAddr 5 off) slot
  | .ascii16Win0Read slot off => winRecord .ascii16 (pageAddr 1 off) slot
  | .ascii16Win1Read slot off => winRecord .ascii16 (pageAddr 2 off) slot

/-- The transaction of 30 R90 that a row decodes: a control write and an SCC region write are a WRITE (41
R133, R134), a window read and an SCC region read a TRANSLATE (41 R137). A transaction is itself. -/
def Instr.transaction : Instr → Instr
  | .resolve addr => .resolve addr
  | .select page slot => .select page slot
  | .isExp primary => .isExp primary
  | .register slot variant romSize => .register slot variant romSize
  | .unregister slot => .unregister slot
  | .write slot addr value => .write slot addr value
  | .translate slot page offset => .translate slot page offset
  | .busRead addr => .busRead addr
  | .busWrite addr value => .busWrite addr value
  | .reset exp => .reset exp
  | .konamiSel1 slot off value => .write slot (regionAddr 3 off) value
  | .konamiSel2 slot off value => .write slot (regionAddr 4 off) value
  | .konamiSel3 slot off value => .write slot (regionAddr 5 off) value
  | .sccSel0 slot off value => .write slot (blockAddr 0b01010 off) value
  | .sccSel1 slot off value => .write slot (blockAddr 0b01110 off) value
  | .sccSel2 slot off value => .write slot (blockAddr 0b10010 off) value
  | .sccSccOn slot off => .write slot (blockAddr 0b10010 off) 0x3F
  | .sccSel3 slot off value => .write slot (blockAddr 0b10110 off) value
  | .ascii8Sel0 slot off value => .write slot (blockAddr 0b01100 off) value
  | .ascii8Sel1 slot off value => .write slot (blockAddr 0b01101 off) value
  | .ascii8Sel2 slot off value => .write slot (blockAddr 0b01110 off) value
  | .ascii8Sel3 slot off value => .write slot (blockAddr 0b01111 off) value
  | .ascii16Sel0 slot off value => .write slot (blockAddr 0b01100 off) value
  | .ascii16Sel1 slot off value => .write slot (blockAddr 0b01110 off) value
  | .sccRegionRead slot off => .translate slot 2 (0b0110#4 ++ off)
  | .sccRegionWrite slot off value => .write slot (sccRegionAddr off) value
  | .konamiWin0Read slot off => .translate slot 1 (0#1 ++ off)
  | .konamiWin1Read slot off => .translate slot 1 (1#1 ++ off)
  | .konamiWin2Read slot off => .translate slot 2 (0#1 ++ off)
  | .konamiWin3Read slot off => .translate slot 2 (1#1 ++ off)
  | .sccWin0Read slot off => .translate slot 1 (0#1 ++ off)
  | .sccWin1Read slot off => .translate slot 1 (1#1 ++ off)
  | .sccWin2Read slot off => .translate slot 2 (0#1 ++ off)
  | .sccWin3Read slot off => .translate slot 2 (1#1 ++ off)
  | .ascii8Win0Read slot off => .translate slot 1 (0#1 ++ off)
  | .ascii8Win1Read slot off => .translate slot 1 (1#1 ++ off)
  | .ascii8Win2Read slot off => .translate slot 2 (0#1 ++ off)
  | .ascii8Win3Read slot off => .translate slot 2 (1#1 ++ off)
  | .ascii16Win0Read slot off => .translate slot 1 off
  | .ascii16Win1Read slot off => .translate slot 2 off

/-! ## The opcode table's own words -/

/-- Whether a record is an instruction. -/
def Record.decodes (r : Record) : Bool :=
  match decode r with
  | .ok _ => true
  | .error _ => false

/-- The record of a word of the opcode table: a row of at most 8 bits is a transaction, any other is of
the first format, in the table's order, in which the word is a row. -/
def tableRecord (nbits w : Nat) : Record :=
  let bits := w % 2 ^ nbits
  if nbits ≤ 8 then ⟨.txn, bits⟩
  else (([.ctrlWrite, .sccAccess, .winRead].map fun f => Record.mk f bits).find? Record.decodes).getD ⟨.ctrlWrite, bits⟩

/-- The instruction the decoder reads from a word of the opcode table, `none` where it refuses. -/
def decodeTableWord (nbits w : Nat) : Option Instr :=
  match decode (tableRecord nbits w) with
  | .ok i => some i
  | .error _ => none

end Sys2Proof
end

