-- ==== Sys2Proof/Machine/State.lean ====
section
/-! DEFINITION. The state of the machine: the block's own state S (10_state.md R20), and around it the
sequence of transactions it consumes, the last result, and what it hands to its collaborators. Plain
data throughout. -/

namespace Sys2Proof.Machine

/-- A MapperState (10 R28). -/
structure MapperState where
  variant   : Mapper
  /-- The ROM image size in bytes (00 R7: an unbounded natural). -/
  romSize   : Nat
  bankSize  : Nat
  bankCount : Nat
  /-- The bank-select registers, `bank[i]` driving window i (10 R29). -/
  bank      : List Nat
  /-- The SCC redirect flag, present only for KonamiSCC (10 R28, R31). -/
  scc       : Option Bool
  deriving DecidableEq, Repr, Inhabited

/-- The place of an EffSlot in the MapperTable: "There are 20 possible EffSlot values" (10 R23). -/
def slotIndex (k : EffSlot) : Fin 20 :=
  match k.secondary with
  | none => ⟨k.primary.toNat * 5, by have := k.primary.isLt; omega⟩
  | some q => ⟨k.primary.toNat * 5 + q.toNat + 1, by have := k.primary.isLt; have := q.isLt; omega⟩

/-- The block state S: "exactly the following" (10 R20). -/
structure Block where
  /-- SlotAssignment: one stored SlotId per page (10 R24). -/
  assign  : Vector SlotId 4
  /-- The expansion table: bit p for primary slot p (10 R26). -/
  exp     : BitVec 4
  /-- The MapperTable, a partial map from EffSlot, by `slotIndex` (10 R27). -/
  mappers : Vector (Option MapperState) 20
  deriving DecidableEq, Repr

/-- The reason of a ConfigError (30 R91, 60 R220). -/
inductive ConfigReason where
  | unsupportedVariant | zeroSize | notMultiple
  deriving DecidableEq, Repr, Inhabited

/-- The result of a write (30 R91). -/
inductive WriteOutcome where
  /-- Bank register or SCC flag `i` was written. -/
  | consumed (i : Nat)
  /-- An ordinary write to a collaborator location. -/
  | forward (loc : Loc) (value : Byte)
  /-- A write to ROM or to Unmapped. -/
  | discarded (loc : Loc)
  deriving DecidableEq, Repr, Inhabited

/-- The result of a transaction (30 R91). -/
inductive Result where
  | nothing
  | resolved (slot : EffSlot) (page : Page) (offset : Off14)
  | expanded (b : Bool)
  | ok
  | configError (reason : ConfigReason)
  | written (outcome : WriteOutcome)
  | located (loc : Loc)
  | read (loc : Loc) (data : Byte)
  deriving DecidableEq, Repr, Inhabited

/-- A byte handed to a collaborator by MemWrite (20 R51). -/
structure Delivery where
  loc   : Loc
  value : Byte
  deriving DecidableEq, Repr, Inhabited

/-- Why the machine stops with a fault. -/
inductive Fault where
  /-- Raised by `step` when no transaction is pending: the block takes no step of its own (00 R2). Safe,
  log entry 1. -/
  | noTransaction
  deriving DecidableEq, Repr

/-- Why a record has no meaning. -/
inductive Refusal where
  /-- Raised by `exec` for an instruction that has no meaning yet. Safe. -/
  | notModelled (mnemonic : String)
  /-- Raised by `step` for a record that the decoder refuses by name (30 R92). Safe, log entry 2. -/
  | undecodable (reason : Reject)
  deriving DecidableEq, Repr

/-- The state of the machine. `blk` is the spec's S; the other fields are the model's own. -/
structure State where
  blk        : Block
  /-- The parameter `CTRL_DECODE` (00 R6); no step changes it. Log entry 5. -/
  ctrlDecode : CtrlDecode
  /-- The transactions not yet executed, oldest first (10 R21). Log entry 1. -/
  pending    : List Record
  /-- The result of the last transaction (30 R91). Log entry 13. -/
  result     : Result
  /-- The bytes handed to the collaborators, oldest first (20 R51). Log entry 9. -/
  deliveries : List Delivery
  /-- How many free values reads have drawn. Log entry 7. -/
  draws      : Nat
  /-- How many ROM images have been registered at each key, by `slotIndex`. Log entry 8. -/
  images     : Vector Nat 20
  deriving DecidableEq, Repr

/-- The SlotId of every page after RESET (10 R35): non-expanded, secondary 0, primary 0. -/
def resetSlot : SlotId := ⟨false, 0, 0⟩

/-- S after `RESET exp` (10 R35, 70 R240). -/
def Block.afterReset (exp : BitVec 4) : Block :=
  { assign := Vector.replicate 4 resetSlot, exp := exp, mappers := Vector.replicate 20 none }

/-- The machine right after reset: S as 10 R35 says, with `EXPANDED` = 0b0000 (DESIGN CHOICE, log entry 4)
and `CTRL_DECODE` = EXACT, the spec's default (log entry 5). -/
def State.reset : State :=
  { blk := Block.afterReset 0, ctrlDecode := .exact, pending := [], result := .nothing,
    deliveries := [], draws := 0, images := Vector.replicate 20 0 }

end Sys2Proof.Machine
end

