-- ==== Sys2Proof/Machine/Ops.lean ====
section
/-! DEFINITION. The named operations over the state: slot identifiers and tables, taking the next
transaction, ending a transaction, raising ConfigError, and the collaborators' MemRead and MemWrite. -/

namespace Sys2Proof.Machine

/-! ## The tables of S -/

/-- The effective SlotId against the expansion table (10 R23). -/
def Block.eff (b : Block) (s : SlotId) : EffSlot :=
  if s.expanded && b.exp.getLsbD s.primary.toNat then ⟨s.primary, some s.secondary⟩
  else ⟨s.primary, none⟩

/-- Two SlotIds are equal "iff their effective (primary, secondary-or-none) pair matches" (10 R23). -/
def Block.sameSlot (b : Block) (s t : SlotId) : Bool := b.eff s = b.eff t

/-- `S.assign[page]` (10 R24). -/
def Block.assigned (b : Block) (p : Page) : SlotId := b.assign.get p.toFin

/-- `S.assign[page] <- slot` (40 R111). -/
def Block.select (b : Block) (p : Page) (slot : SlotId) : Block :=
  { b with assign := b.assign.set p.toNat slot p.isLt }

/-- `S.mappers[key]`, `none` when the key has no entry (10 R27). -/
def Block.mapper? (b : Block) (k : EffSlot) : Option MapperState := b.mappers.get (slotIndex k)

/-- `S.mappers[key] <- m`, or its removal for `none` (10 R27). -/
def Block.setMapper (b : Block) (k : EffSlot) (m : Option MapperState) : Block :=
  { b with mappers := b.mappers.set (slotIndex k).val m (slotIndex k).isLt }

/-- `m.bank[i]`; a register the variant does not have reads 0. -/
def MapperState.bankAt (m : MapperState) (i : Nat) : Nat := m.bank.getD i 0

/-- `m.bank[i] <- value mod m.bank_count` (41 R136). -/
def MapperState.selectBank (m : MapperState) (i : Nat) (value : Byte) : MapperState :=
  { m with bank := m.bank.set i (value.toNat % m.bankCount) }

/-! ## Transactions -/

/-- The next transaction of the sequence, and the state with it taken (10 R21). -/
def State.fetch (s : State) : Option (Record × State) :=
  match s.pending with
  | [] => none
  | r :: rest => some (r, { s with pending := rest })

/-- The answer of an instruction. -/
abbrev Answer := Host.Outcome State Fault Refusal

/-- `return r` from a transaction that writes nothing of S (00 R10). -/
def State.finish (s : State) (r : Result) : Answer := .next { s with result := r }

/-- `return r` from a transaction whose S is now `b`. -/
def State.commit (s : State) (b : Block) (r : Result) : Answer := .next { s with blk := b, result := r }

/-- `raise ConfigError(reason)`: it "ends a `register_mapper` transaction with an error result and no state
change" (00 R10, 41 R143). The one error of the block; there is no trap entry and no return (60 R224). -/
def State.raiseConfigError (s : State) (reason : ConfigReason) : Answer := s.finish (.configError reason)

/-! ## Collaborators -/

/-- A byte that nothing constrains: the free value at the counter, which advances (20 R54, R55). -/
def State.draw (s : State) : Byte × State := (Config.draw s.draws, { s with draws := s.draws + 1 })

/-- How many ROM images have been registered at a key. The collaborator's side of REGISTER, no part of S. -/
def State.imageAt (s : State) (k : EffSlot) : Nat := s.images.get (slotIndex k)

/-- `ROM_IMAGE` holds another image for a key, "per registered slot" (00 R6). Log entry 8. -/
def State.newImage (s : State) (k : EffSlot) : State :=
  { s with images := s.images.set (slotIndex k).val (s.imageAt k + 1) (slotIndex k).isLt }

/-- `MemRead(loc, 1)` (20 R51): byte o of the slot's ROM image (R52), and a draw from BACKING, SCC_DEVICE
or an Unmapped location (R53, R54, R55). -/
def State.memRead (s : State) : Loc → Byte × State
  | .rom slot offset =>
    match s.blk.mapper? slot with
    | some _ => (Config.romImage slot (s.imageAt slot) offset, s)
    | none => s.draw
  | .scc _ _ | .plain _ _ _ | .unmapped _ _ _ => s.draw

/-- `MemWrite(loc, 1, v)` (20 R51): a byte handed to BACKING or SCC_DEVICE (R53, R54). It is never issued
to ROM (R52), and a write to Unmapped is discarded (R55). -/
def State.memWrite (s : State) (loc : Loc) (value : Byte) : State :=
  match loc with
  | .plain _ _ _ | .scc _ _ => { s with deliveries := s.deliveries ++ [⟨loc, value⟩] }
  | .rom _ _ | .unmapped _ _ _ => s

end Sys2Proof.Machine
end

