-- ==== Sys2Proof/Machine/Operands.lean ====
section
/-! DEFINITION. The operand forms: how an address is cut (30_encoding.md R80 to R85), how a physical ROM
offset is put together (R86), and how an EffSlot is written out (R83). -/

namespace Sys2Proof.Machine

/-- `page = a[15:14]` (30 R80). -/
def pageOf (a : Addr) : Page := a.extractLsb' 14 2

/-- `page_offset = a[13:0]` (30 R80). -/
def offsetOf (a : Addr) : Off14 := a.extractLsb' 0 14

/-- The 8 KB window, `((page - 1) << 1) | page_offset[13]` (30 R84). -/
def window8 (page : Page) (offset : Off14) : Nat := (page.toNat - 1) * 2 + (offset.getLsbD 13).toNat

/-- `bank_offset = page_offset[12:0]` of an 8 KB window (30 R84). -/
def bankOffset8 (offset : Off14) : BitVec 13 := offset.extractLsb' 0 13

/-- The 16 KB window, `page - 1` (30 R85). -/
def window16 (page : Page) : Nat := page.toNat - 1

/-- Whether a page is in the cartridge area 0x4000 to 0xBFFF: pages 1 and 2 (20 R61). -/
def inCartridgeArea (page : Page) : Bool := page = 1#2 || page = 2#2

/-- `phys = (bank * bank_size + bank_offset) mod rom_size` (30 R86). -/
def physOffset (bank bankSize bankOffset romSize : Nat) : Nat := (bank * bankSize + bankOffset) % romSize

/-- The offset of an address in the SCC region, `addr - 0x9800` (41 R133). -/
def sccOffset (a : Addr) : BitVec 10 := (a - 0x9800#16).setWidth 10

/-- An EffSlot on output, in the layout SLOTID8 (30 R83). -/
def effSlotByte (k : EffSlot) : Byte :=
  match k.secondary with
  | none => 0#6 ++ k.primary
  | some q => 1#1 ++ 0#3 ++ q ++ k.primary

/-- `bank_size` of a variant (41 R130). -/
def bankSizeOf : Mapper → Nat
  | .konami => 8192
  | .konamiSCC => 8192
  | .ascii8 => 8192
  | .ascii16 => 16384

/-- How many windows, and so bank registers, a variant has (41 R130, 10 R29). -/
def windowsOf : Mapper → Nat
  | .konami => 4
  | .konamiSCC => 4
  | .ascii8 => 4
  | .ascii16 => 2

/-- `INIT_BANKS(variant, i, bank_count)`, in [0, bank_count) (00 R6). A free value, log entry 6. -/
def initBank (m : Mapper) (i bankCount : Nat) : Nat := Config.initBanks m i bankCount % bankCount

/-- The bank registers at registration (10 R36): Konami register 0 is 0, every other is INIT_BANKS. -/
def initBanks (m : Mapper) (bankCount : Nat) : List Nat :=
  match m with
  | .konami => [0, initBank .konami 1 bankCount, initBank .konami 2 bankCount, initBank .konami 3 bankCount]
  | .konamiSCC => [initBank .konamiSCC 0 bankCount, initBank .konamiSCC 1 bankCount,
      initBank .konamiSCC 2 bankCount, initBank .konamiSCC 3 bankCount]
  | .ascii8 => [initBank .ascii8 0 bankCount, initBank .ascii8 1 bankCount,
      initBank .ascii8 2 bankCount, initBank .ascii8 3 bankCount]
  | .ascii16 => [initBank .ascii16 0 bankCount, initBank .ascii16 1 bankCount]

end Sys2Proof.Machine
end

