-- ==== Sys2Proof/Machine/Flags.lean ====
section
/-! DEFINITION. The block's only flags: the expansion flags and the SCC redirect flag (10_state.md R21). -/

namespace Sys2Proof.Machine

/-- `S.exp[p]` (10 R26, 40 R112). -/
def Block.isExpanded (b : Block) (p : BitVec 2) : Bool := b.exp.getLsbD p.toNat

/-- `m.scc <- v` (43 R173, R174). -/
def MapperState.setScc (m : MapperState) (v : Bool) : MapperState := { m with scc := some v }

/-- `m.scc` at registration: 0 for KonamiSCC, absent for the others (10 R28, R36). -/
def initScc : Mapper → Option Bool
  | .konami => none
  | .konamiSCC => some false
  | .ascii8 => none
  | .ascii16 => none

/-- `m.variant == KonamiSCC and m.scc == 1` (41 R133). -/
def MapperState.redirects (m : MapperState) : Bool := m.variant = .konamiSCC && m.scc = some true

end Sys2Proof.Machine
end

