-- ==== Sys2Proof/Machine/Rules.lean ====
section
/-! DEFINITION. The variants' register rules and read rules (42 to 45), and the two operations of the
Mapper Engine that choose among them: `on_write` (41 R133, R134) and `translate_read` (41 R137). -/

namespace Sys2Proof.Machine

/-! ## Register rules -/

/-- 42 R162. -/
def MapperState.konamiSel1 (m : MapperState) (value : Byte) : MapperState := m.selectBank 1 value
/-- 42 R163. -/
def MapperState.konamiSel2 (m : MapperState) (value : Byte) : MapperState := m.selectBank 2 value
/-- 42 R164. -/
def MapperState.konamiSel3 (m : MapperState) (value : Byte) : MapperState := m.selectBank 3 value
/-- 43 R171. -/
def MapperState.sccSel0 (m : MapperState) (value : Byte) : MapperState := m.selectBank 0 value
/-- 43 R172. -/
def MapperState.sccSel1 (m : MapperState) (value : Byte) : MapperState := m.selectBank 1 value
/-- 43 R173: the bank, and the end of an active redirect. -/
def MapperState.sccSel2 (m : MapperState) (value : Byte) : MapperState := (m.selectBank 2 value).setScc false
/-- 43 R174: the flag, and no bank. -/
def MapperState.sccSccOn (m : MapperState) : MapperState := m.setScc true
/-- 43 R175. -/
def MapperState.sccSel3 (m : MapperState) (value : Byte) : MapperState := m.selectBank 3 value
/-- 44 R186. -/
def MapperState.ascii8Sel0 (m : MapperState) (value : Byte) : MapperState := m.selectBank 0 value
/-- 44 R187. -/
def MapperState.ascii8Sel1 (m : MapperState) (value : Byte) : MapperState := m.selectBank 1 value
/-- 44 R188. -/
def MapperState.ascii8Sel2 (m : MapperState) (value : Byte) : MapperState := m.selectBank 2 value
/-- 44 R189. -/
def MapperState.ascii8Sel3 (m : MapperState) (value : Byte) : MapperState := m.selectBank 3 value
/-- 45 R196. -/
def MapperState.ascii16Sel0 (m : MapperState) (value : Byte) : MapperState := m.selectBank 0 value
/-- 45 R197. -/
def MapperState.ascii16Sel1 (m : MapperState) (value : Byte) : MapperState := m.selectBank 1 value

/-- The variant's rule for register `i`, "and no other rule" (41 R134). `decodeCtrl` answers no other
register than those listed. -/
def MapperState.writeRegister (m : MapperState) (i : Nat) (value : Byte) : MapperState :=
  match m.variant, i with
  | .konami, 1 => m.konamiSel1 value
  | .konami, 2 => m.konamiSel2 value
  | .konami, 3 => m.konamiSel3 value
  | .konamiSCC, 0 => m.sccSel0 value
  | .konamiSCC, 1 => m.sccSel1 value
  | .konamiSCC, 2 => if value = 0x3F#8 then m.sccSccOn else m.sccSel2 value
  | .konamiSCC, 3 => m.sccSel3 value
  | .ascii8, 0 => m.ascii8Sel0 value
  | .ascii8, 1 => m.ascii8Sel1 value
  | .ascii8, 2 => m.ascii8Sel2 value
  | .ascii8, 3 => m.ascii8Sel3 value
  | .ascii16, 0 => m.ascii16Sel0 value
  | .ascii16, 1 => m.ascii16Sel1 value
  | _, _ => m

/-! ## Read rules -/

/-- A byte of an 8 KB window: `Rom(key, phys)` with `phys` of 30 R86. -/
def MapperState.rom8 (m : MapperState) (key : EffSlot) (bank : Nat) (bankOffset : BitVec 13) : Loc :=
  .rom key (physOffset bank 8192 bankOffset.toNat m.romSize)

/-- A byte of a 16 KB window (30 R85, R86). -/
def MapperState.rom16 (m : MapperState) (key : EffSlot) (bank : Nat) (offset : Off14) : Loc :=
  .rom key (physOffset bank 16384 offset.toNat m.romSize)

/-- The Konami read rule (42 R165): window 0 shows bank 0. -/
def MapperState.konamiRead (m : MapperState) (key : EffSlot) (page : Page) (offset : Off14) : Loc :=
  let w := window8 page offset
  m.rom8 key (if w = 0 then 0 else m.bankAt w) (bankOffset8 offset)

/-- The SCC read rule (43 R176): offsets 0x1800 to 0x1BFF of window 2 are redirected while the flag is 1. -/
def MapperState.sccRead (m : MapperState) (key : EffSlot) (page : Page) (offset : Off14) : Loc :=
  let w := window8 page offset
  if w = 2 ∧ m.scc = some true ∧ 0x1800#14 ≤ offset ∧ offset ≤ 0x1BFF#14 then
    .scc key ((offset - 0x1800#14).setWidth 10)
  else m.rom8 key (m.bankAt w) (bankOffset8 offset)

/-- The ASCII8 read rule (44 R190). -/
def MapperState.ascii8Read (m : MapperState) (key : EffSlot) (page : Page) (offset : Off14) : Loc :=
  m.rom8 key (m.bankAt (window8 page offset)) (bankOffset8 offset)

/-- The ASCII16 read rule (45 R198). -/
def MapperState.ascii16Read (m : MapperState) (key : EffSlot) (page : Page) (offset : Off14) : Loc :=
  m.rom16 key (m.bankAt (window16 page)) offset

/-- `variant_read` (41 R130, R137). -/
def MapperState.readLoc (m : MapperState) (key : EffSlot) (page : Page) (offset : Off14) : Loc :=
  match m.variant with
  | .konami => m.konamiRead key page offset
  | .konamiSCC => m.sccRead key page offset
  | .ascii8 => m.ascii8Read key page offset
  | .ascii16 => m.ascii16Read key page offset

/-! ## The Mapper Engine -/

/-- `translate_read` on the key of a slot (41 R137, R138, R139). -/
def Block.translate (b : Block) (key : EffSlot) (page : Page) (offset : Off14) : Loc :=
  match b.mapper? key with
  | none => .plain key page offset
  | some m => if inCartridgeArea page then m.readLoc key page offset else .unmapped key page offset

/-- `on_write` on the key of a slot (41 R133): the S it leaves, and its outcome. -/
def Block.onWrite (b : Block) (mode : CtrlDecode) (key : EffSlot) (addr : Addr) (value : Byte) :
    Block × WriteOutcome :=
  match b.mapper? key with
  | none => (b, .forward (.plain key (pageOf addr) (offsetOf addr)) value)
  | some m =>
    match decodeCtrl mode m.variant addr with
    | some i => (b.setMapper key (some (m.writeRegister i value)), .consumed i)
    | none =>
      if m.redirects && inSccRegion addr then (b, .forward (.scc key (sccOffset addr)) value)
      else (b, .discarded (b.translate key (pageOf addr) (offsetOf addr)))

/-- A MapperState as `register_mapper` creates it (41 R131). -/
def MapperState.fresh (v : Mapper) (romSize : Nat) : MapperState :=
  { variant := v, romSize := romSize, bankSize := bankSizeOf v, bankCount := romSize / bankSizeOf v,
    bank := initBanks v (romSize / bankSizeOf v), scc := initScc v }

end Sys2Proof.Machine
end

