-- ==== Sys2Proof/Machine/Engine.lean ====
section
/-! DEFINITION. The Mapper Engine's transactions (41_mapper_engine.md), and how a row of the opcode table
that decodes a WRITE or a TRANSLATE stands to it. -/

namespace Sys2Proof.Machine

/-- REGISTER (41 R131): the checks in the order of 60 R221, then a fresh MapperState at the slot's key. -/
def execRegister (slot : SlotId) (variant : Option Variant) (romSize : Nat) (s : State) : Answer :=
  match variant.bind Variant.mapper? with
  | none => s.raiseConfigError .unsupportedVariant
  | some v =>
    if romSize = 0 then s.raiseConfigError .zeroSize
    else if romSize % bankSizeOf v ≠ 0 then s.raiseConfigError .notMultiple
    else
      (s.newImage (s.blk.eff slot)).commit
        (s.blk.setMapper (s.blk.eff slot) (some (MapperState.fresh v romSize))) .ok

/-- UNREGISTER (41 R132). -/
def execUnregister (slot : SlotId) (s : State) : Answer :=
  s.commit (s.blk.setMapper (s.blk.eff slot) none) .nothing

/-- WRITE (41 R133). The outcome names where a forwarded byte goes; the MemWrite is the bus path's (46
R206, 30 R94). Log entry 10. -/
def execWrite (slot : SlotId) (addr : Addr) (value : Byte) (s : State) : Answer :=
  let (b, outcome) := s.blk.onWrite s.ctrlDecode (s.blk.eff slot) addr value
  s.commit b (.written outcome)

/-- TRANSLATE (41 R137). -/
def execTranslate (slot : SlotId) (page : Page) (offset : Off14) (s : State) : Answer :=
  s.finish (.located (s.blk.translate (s.blk.eff slot) page offset))

/-- A CTRL_WRITE row: a WRITE to a slot of variant `v` whose address decodes to register `i` performs
`rule` (41 R134). A WRITE for which that does not hold is another decoding, and WRITE gives it its
meaning (30 R92). Log entry 11. -/
def State.ctrlRow (s : State) (v : Mapper) (i : Nat) (rule : MapperState → MapperState) (slot : SlotId)
    (addr : Addr) (value : Byte) : Answer :=
  let key := s.blk.eff slot
  match s.blk.mapper? key with
  | none => execWrite slot addr value s
  | some m =>
    if m.variant = v ∧ decodeCtrl s.ctrlDecode v addr = some i then
      s.commit (s.blk.setMapper key (some (rule m))) (.written (.consumed i))
    else execWrite slot addr value s

/-- A WIN_READ row: the read of an address of a window of a slot of variant `v` gives `rule`'s location.
On a slot of another variant the read is another decoding, and TRANSLATE gives it its meaning.
Log entry 11. -/
def State.winRow (s : State) (v : Mapper) (rule : MapperState → EffSlot → Loc) (slot : SlotId)
    (addr : Addr) : Answer :=
  let key := s.blk.eff slot
  match s.blk.mapper? key with
  | none => execTranslate slot (pageOf addr) (offsetOf addr) s
  | some m =>
    if m.variant = v then s.finish (.located (rule m key))
    else execTranslate slot (pageOf addr) (offsetOf addr) s

end Sys2Proof.Machine
end

