-- ==== Sys2Proof/Machine/Ascii16.lean ====
section
/-! DEFINITION. The ASCII16 rows of the opcode table (45_ascii16.md). -/

namespace Sys2Proof.Machine

/-- ASCII16.SEL0 (45 R196), at 0x6000 (EXACT) or 0x6000 to 0x67FF (RANGE). -/
def execAscii16Sel0 (slot : SlotId) (off : BitVec 11) (value : Byte) (s : State) : Answer :=
  s.ctrlRow .ascii16 0 (fun m => m.ascii16Sel0 value) slot (blockAddr 0b01100 off) value

/-- ASCII16.SEL1 (45 R197), at 0x7000 (EXACT) or 0x7000 to 0x77FF (RANGE). -/
def execAscii16Sel1 (slot : SlotId) (off : BitVec 11) (value : Byte) (s : State) : Answer :=
  s.ctrlRow .ascii16 1 (fun m => m.ascii16Sel1 value) slot (blockAddr 0b01110 off) value

/-- ASCII16.WIN0_READ (45 R198): page 1. -/
def execAscii16Win0Read (slot : SlotId) (off : BitVec 14) (s : State) : Answer :=
  s.winRow .ascii16 (fun m key => m.rom16 key (m.bankAt 0) off) slot (pageAddr 1 off)

/-- ASCII16.WIN1_READ (45 R198): page 2. -/
def execAscii16Win1Read (slot : SlotId) (off : BitVec 14) (s : State) : Answer :=
  s.winRow .ascii16 (fun m key => m.rom16 key (m.bankAt 1) off) slot (pageAddr 2 off)

end Sys2Proof.Machine
end

