-- ==== Sys2Proof/Machine/Ascii8.lean ====
section
/-! DEFINITION. The ASCII8 rows of the opcode table (44_ascii8.md). -/

namespace Sys2Proof.Machine

/-- ASCII8.SEL0 (44 R186), at 0x6000 (EXACT) or 0x6000 to 0x67FF (RANGE). -/
def execAscii8Sel0 (slot : SlotId) (off : BitVec 11) (value : Byte) (s : State) : Answer :=
  s.ctrlRow .ascii8 0 (fun m => m.ascii8Sel0 value) slot (blockAddr 0b01100 off) value

/-- ASCII8.SEL1 (44 R187), at 0x6800 (EXACT) or 0x6800 to 0x6FFF (RANGE). -/
def execAscii8Sel1 (slot : SlotId) (off : BitVec 11) (value : Byte) (s : State) : Answer :=
  s.ctrlRow .ascii8 1 (fun m => m.ascii8Sel1 value) slot (blockAddr 0b01101 off) value

/-- ASCII8.SEL2 (44 R188), at 0x7000 (EXACT) or 0x7000 to 0x77FF (RANGE). -/
def execAscii8Sel2 (slot : SlotId) (off : BitVec 11) (value : Byte) (s : State) : Answer :=
  s.ctrlRow .ascii8 2 (fun m => m.ascii8Sel2 value) slot (blockAddr 0b01110 off) value

/-- ASCII8.SEL3 (44 R189), at 0x7800 (EXACT) or 0x7800 to 0x7FFF (RANGE). -/
def execAscii8Sel3 (slot : SlotId) (off : BitVec 11) (value : Byte) (s : State) : Answer :=
  s.ctrlRow .ascii8 3 (fun m => m.ascii8Sel3 value) slot (blockAddr 0b01111 off) value

/-- ASCII8.WIN0_READ (44 R190). -/
def execAscii8Win0Read (slot : SlotId) (off : BitVec 13) (s : State) : Answer :=
  s.winRow .ascii8 (fun m key => m.rom8 key (m.bankAt 0) off) slot (regionAddr 2 off)

/-- ASCII8.WIN1_READ (44 R190). -/
def execAscii8Win1Read (slot : SlotId) (off : BitVec 13) (s : State) : Answer :=
  s.winRow .ascii8 (fun m key => m.rom8 key (m.bankAt 1) off) slot (regionAddr 3 off)

/-- ASCII8.WIN2_READ (44 R190). -/
def execAscii8Win2Read (slot : SlotId) (off : BitVec 13) (s : State) : Answer :=
  s.winRow .ascii8 (fun m key => m.rom8 key (m.bankAt 2) off) slot (regionAddr 4 off)

/-- ASCII8.WIN3_READ (44 R190). -/
def execAscii8Win3Read (slot : SlotId) (off : BitVec 13) (s : State) : Answer :=
  s.winRow .ascii8 (fun m key => m.rom8 key (m.bankAt 3) off) slot (regionAddr 5 off)

end Sys2Proof.Machine
end

