-- ==== Sys2Proof/Machine/Resolver.lean ====
section
/-! DEFINITION. The Slot Resolver's transactions (40_slot_resolver.md). -/

namespace Sys2Proof.Machine

/-- `resolve(address)` (40 R110): the slot, page and offset. -/
def Block.resolve (b : Block) (addr : Addr) : EffSlot × Page × Off14 :=
  (b.eff (b.assigned (pageOf addr)), pageOf addr, offsetOf addr)

/-- RESOLVE (40 R110). -/
def execResolve (addr : Addr) (s : State) : Answer :=
  let (slot, page, offset) := s.blk.resolve addr
  s.finish (.resolved slot page offset)

/-- SELECT (40 R111): stored as given. -/
def execSelect (page : Page) (slot : SlotId) (s : State) : Answer :=
  s.commit (s.blk.select page slot) .nothing

/-- ISEXP (40 R112). -/
def execIsExp (primary : BitVec 2) (s : State) : Answer :=
  s.finish (.expanded (s.blk.isExpanded primary))

end Sys2Proof.Machine
end

