-- ==== Sys2Proof/Machine/Bus.lean ====
section
/-! DEFINITION. The bus access pipeline (46_bus_access.md): RESOLVE, then TRANSLATE or WRITE, then the
collaborator's MemRead or MemWrite, in one atomic step (30 R94). -/

namespace Sys2Proof.Machine

/-- The location of a bus read (46 R205): a slot with no MapperState is served by BACKING (46 R211). -/
def Block.busLoc (b : Block) (addr : Addr) : Loc :=
  let (slot, page, offset) := b.resolve addr
  match b.mapper? slot with
  | some _ => b.translate slot page offset
  | none => .plain slot page offset

/-- BUSREAD (46 R205); an instruction fetch is one too (46 R209). -/
def execBusRead (addr : Addr) (s : State) : Answer :=
  let loc := s.blk.busLoc addr
  let (data, s') := s.memRead loc
  s'.finish (.read loc data)

/-- The S and the outcome of a bus write (46 R206). -/
def Block.busWrite (b : Block) (mode : CtrlDecode) (addr : Addr) (value : Byte) : Block × WriteOutcome :=
  let (slot, page, offset) := b.resolve addr
  match b.mapper? slot with
  | some _ => b.onWrite mode slot addr value
  | none => (b, .forward (.plain slot page offset) value)

/-- `if out == Forward(loc, v): MemWrite(loc, 1, v)` (46 R206). -/
def State.forwardOutcome (s : State) : WriteOutcome → State
  | .forward loc value => s.memWrite loc value
  | .consumed _ | .discarded _ => s

/-- BUSWRITE (46 R206). -/
def execBusWrite (addr : Addr) (value : Byte) (s : State) : Answer :=
  let (b, outcome) := s.blk.busWrite s.ctrlDecode addr value
  (s.forwardOutcome outcome).commit b (.written outcome)

end Sys2Proof.Machine
end

