-- ==== Sys2Proof/Machine/Konami.lean ====
section
/-! DEFINITION. The Konami rows of the opcode table (42_konami.md). -/

namespace Sys2Proof.Machine

/-- KONAMI.SEL1 (42 R162), at 0x6000 (EXACT) or 0x6000 to 0x7FFF (RANGE). -/
def execKonamiSel1 (slot : SlotId) (off : BitVec 13) (value : Byte) (s : State) : Answer :=
  s.ctrlRow .konami 1 (fun m => m.konamiSel1 value) slot (regionAddr 3 off) value

/-- KONAMI.SEL2 (42 R163), at 0x8000 (EXACT) or 0x8000 to 0x9FFF (RANGE). -/
def execKonamiSel2 (slot : SlotId) (off : BitVec 13) (value : Byte) (s : State) : Answer :=
  s.ctrlRow .konami 2 (fun m => m.konamiSel2 value) slot (regionAddr 4 off) value

/-- KONAMI.SEL3 (42 R164), at 0xA000 (EXACT) or 0xA000 to 0xBFFF (RANGE). -/
def execKonamiSel3 (slot : SlotId) (off : BitVec 13) (value : Byte) (s : State) : Answer :=
  s.ctrlRow .konami 3 (fun m => m.konamiSel3 value) slot (regionAddr 5 off) value

/-- KONAMI.WIN0_READ (42 R161, R165): bank 0, fixed. -/
def execKonamiWin0Read (slot : SlotId) (off : BitVec 13) (s : State) : Answer :=
  s.winRow .konami (fun m key => m.rom8 key 0 off) slot (regionAddr 2 off)

/-- KONAMI.WIN1_READ (42 R165). -/
def execKonamiWin1Read (slot : SlotId) (off : BitVec 13) (s : State) : Answer :=
  s.winRow .konami (fun m key => m.rom8 key (m.bankAt 1) off) slot (regionAddr 3 off)

/-- KONAMI.WIN2_READ (42 R165). -/
def execKonamiWin2Read (slot : SlotId) (off : BitVec 13) (s : State) : Answer :=
  s.winRow .konami (fun m key => m.rom8 key (m.bankAt 2) off) slot (regionAddr 4 off)

/-- KONAMI.WIN3_READ (42 R165). -/
def execKonamiWin3Read (slot : SlotId) (off : BitVec 13) (s : State) : Answer :=
  s.winRow .konami (fun m key => m.rom8 key (m.bankAt 3) off) slot (regionAddr 5 off)

end Sys2Proof.Machine
end

