-- ==== Sys2Proof/Machine/KonamiScc.lean ====
section
/-! DEFINITION. The Konami+SCC rows of the opcode table (43_konami_scc.md). -/

namespace Sys2Proof.Machine

/-- SCC.SEL0 (43 R171), at 0x5000 (EXACT) or 0x5000 to 0x57FF (RANGE). -/
def execSccSel0 (slot : SlotId) (off : BitVec 11) (value : Byte) (s : State) : Answer :=
  s.ctrlRow .konamiSCC 0 (fun m => m.sccSel0 value) slot (blockAddr 0b01010 off) value

/-- SCC.SEL1 (43 R172), at 0x7000 (EXACT) or 0x7000 to 0x77FF (RANGE). -/
def execSccSel1 (slot : SlotId) (off : BitVec 11) (value : Byte) (s : State) : Answer :=
  s.ctrlRow .konamiSCC 1 (fun m => m.sccSel1 value) slot (blockAddr 0b01110 off) value

/-- SCC.SEL2 (43 R173), at 0x9000 (EXACT) or 0x9000 to 0x97FF (RANGE), for a value other than 0x3F. The
value 0x3F is no SCC.SEL2: the write is then SCC.SCCON, as WRITE decodes it. -/
def execSccSel2 (slot : SlotId) (off : BitVec 11) (value : Byte) (s : State) : Answer :=
  if value = 0x3F#8 then execWrite slot (blockAddr 0b10010 off) value s
  else s.ctrlRow .konamiSCC 2 (fun m => m.sccSel2 value) slot (blockAddr 0b10010 off) value

/-- SCC.SCCON (43 R174), the value 0x3F at the same addresses. -/
def execSccSccOn (slot : SlotId) (off : BitVec 11) (s : State) : Answer :=
  s.ctrlRow .konamiSCC 2 (fun m => m.sccSccOn) slot (blockAddr 0b10010 off) 0x3F

/-- SCC.SEL3 (43 R175), at 0xB000 (EXACT) or 0xB000 to 0xB7FF (RANGE). -/
def execSccSel3 (slot : SlotId) (off : BitVec 11) (value : Byte) (s : State) : Answer :=
  s.ctrlRow .konamiSCC 3 (fun m => m.sccSel3 value) slot (blockAddr 0b10110 off) value

/-- SCC.REGION_READ (43 R176): `Scc(key, off)` while the flag is 1. Otherwise the read is another
decoding (43 R178), and TRANSLATE gives it its meaning. -/
def execSccRegionRead (slot : SlotId) (off : BitVec 10) (s : State) : Answer :=
  let addr := sccRegionAddr off
  match s.blk.mapper? (s.blk.eff slot) with
  | none => execTranslate slot (pageOf addr) (offsetOf addr) s
  | some m =>
    if m.redirects then s.finish (.located (.scc (s.blk.eff slot) off))
    else execTranslate slot (pageOf addr) (offsetOf addr) s

/-- SCC.REGION_WRITE (43 R177): `Forward(Scc(key, off), value)` while the flag is 1, and the SCC device
receives the byte (20 R54). Otherwise the write is another decoding (43 R178), and WRITE gives it its
meaning. Log entry 10. -/
def execSccRegionWrite (slot : SlotId) (off : BitVec 10) (value : Byte) (s : State) : Answer :=
  let loc := Loc.scc (s.blk.eff slot) off
  match s.blk.mapper? (s.blk.eff slot) with
  | none => execWrite slot (sccRegionAddr off) value s
  | some m =>
    if m.redirects then (s.memWrite loc value).finish (.written (.forward loc value))
    else execWrite slot (sccRegionAddr off) value s

/-- SCC.WIN0_READ (43 R176). -/
def execSccWin0Read (slot : SlotId) (off : BitVec 13) (s : State) : Answer :=
  s.winRow .konamiSCC (fun m key => m.rom8 key (m.bankAt 0) off) slot (regionAddr 2 off)

/-- SCC.WIN1_READ (43 R176). -/
def execSccWin1Read (slot : SlotId) (off : BitVec 13) (s : State) : Answer :=
  s.winRow .konamiSCC (fun m key => m.rom8 key (m.bankAt 1) off) slot (regionAddr 3 off)

/-- SCC.WIN2_READ (43 R176): the redirect while the flag is 1 and the offset is 0x1800 to 0x1BFF, ROM
otherwise. -/
def execSccWin2Read (slot : SlotId) (off : BitVec 13) (s : State) : Answer :=
  s.winRow .konamiSCC
    (fun m key =>
      if m.scc = some true ∧ 0x1800#13 ≤ off ∧ off ≤ 0x1BFF#13 then .scc key ((off - 0x1800#13).setWidth 10)
      else m.rom8 key (m.bankAt 2) off)
    slot (regionAddr 4 off)

/-- SCC.WIN3_READ (43 R176). -/
def execSccWin3Read (slot : SlotId) (off : BitVec 13) (s : State) : Answer :=
  s.winRow .konamiSCC (fun m key => m.rom8 key (m.bankAt 3) off) slot (regionAddr 5 off)

end Sys2Proof.Machine
end

