-- ==== Sys2Proof/Machine/Reset.lean ====
section
/-! DEFINITION. System initialisation (70_reset_and_hazards.md). -/

namespace Sys2Proof.Machine

/-- RESET (70 R240): all of S. -/
def execReset (exp : BitVec 4) (s : State) : Answer :=
  s.commit { assign := Vector.replicate 4 ⟨false, 0, 0⟩, exp := exp, mappers := Vector.replicate 20 none }
    .nothing

end Sys2Proof.Machine
end

