-- ==== Sys2Proof/Machine/Dispatch.lean ====
section
/-! DEFINITION. The meaning of each instruction, one arm per row of spec/opcode_table.json. -/

namespace Sys2Proof.Machine

def exec (i : Instr) (s : State) : Host.Outcome State Fault Refusal :=
  match i with
  | .resolve addr => Sys2Proof.Machine.execResolve addr s
  | .select page slot => Sys2Proof.Machine.execSelect page slot s
  | .isExp primary => Sys2Proof.Machine.execIsExp primary s
  | .register slot variant romSize => Sys2Proof.Machine.execRegister slot variant romSize s
  | .unregister slot => Sys2Proof.Machine.execUnregister slot s
  | .write slot addr value => Sys2Proof.Machine.execWrite slot addr value s
  | .translate slot page offset => Sys2Proof.Machine.execTranslate slot page offset s
  | .busRead addr => Sys2Proof.Machine.execBusRead addr s
  | .busWrite addr value => Sys2Proof.Machine.execBusWrite addr value s
  | .reset exp => Sys2Proof.Machine.execReset exp s
  | .konamiSel1 slot off value => Sys2Proof.Machine.execKonamiSel1 slot off value s
  | .konamiSel2 slot off value => Sys2Proof.Machine.execKonamiSel2 slot off value s
  | .konamiSel3 slot off value => Sys2Proof.Machine.execKonamiSel3 slot off value s
  | .sccSel0 slot off value => Sys2Proof.Machine.execSccSel0 slot off value s
  | .sccSel1 slot off value => Sys2Proof.Machine.execSccSel1 slot off value s
  | .sccSel2 slot off value => Sys2Proof.Machine.execSccSel2 slot off value s
  | .sccSccOn slot off => Sys2Proof.Machine.execSccSccOn slot off s
  | .sccSel3 slot off value => Sys2Proof.Machine.execSccSel3 slot off value s
  | .ascii8Sel0 slot off value => Sys2Proof.Machine.execAscii8Sel0 slot off value s
  | .ascii8Sel1 slot off value => Sys2Proof.Machine.execAscii8Sel1 slot off value s
  | .ascii8Sel2 slot off value => Sys2Proof.Machine.execAscii8Sel2 slot off value s
  | .ascii8Sel3 slot off value => Sys2Proof.Machine.execAscii8Sel3 slot off value s
  | .ascii16Sel0 slot off value => Sys2Proof.Machine.execAscii16Sel0 slot off value s
  | .ascii16Sel1 slot off value => Sys2Proof.Machine.execAscii16Sel1 slot off value s
  | .sccRegionRead slot off => Sys2Proof.Machine.execSccRegionRead slot off s
  | .sccRegionWrite slot off value => Sys2Proof.Machine.execSccRegionWrite slot off value s
  | .konamiWin0Read slot off => Sys2Proof.Machine.execKonamiWin0Read slot off s
  | .konamiWin1Read slot off => Sys2Proof.Machine.execKonamiWin1Read slot off s
  | .konamiWin2Read slot off => Sys2Proof.Machine.execKonamiWin2Read slot off s
  | .konamiWin3Read slot off => Sys2Proof.Machine.execKonamiWin3Read slot off s
  | .sccWin0Read slot off => Sys2Proof.Machine.execSccWin0Read slot off s
  | .sccWin1Read slot off => Sys2Proof.Machine.execSccWin1Read slot off s
  | .sccWin2Read slot off => Sys2Proof.Machine.execSccWin2Read slot off s
  | .sccWin3Read slot off => Sys2Proof.Machine.execSccWin3Read slot off s
  | .ascii8Win0Read slot off => Sys2Proof.Machine.execAscii8Win0Read slot off s
  | .ascii8Win1Read slot off => Sys2Proof.Machine.execAscii8Win1Read slot off s
  | .ascii8Win2Read slot off => Sys2Proof.Machine.execAscii8Win2Read slot off s
  | .ascii8Win3Read slot off => Sys2Proof.Machine.execAscii8Win3Read slot off s
  | .ascii16Win0Read slot off => Sys2Proof.Machine.execAscii16Win0Read slot off s
  | .ascii16Win1Read slot off => Sys2Proof.Machine.execAscii16Win1Read slot off s

end Sys2Proof.Machine
end

