-- ==== Sys2Proof/Machine/Step.lean ====
section
/-! DEFINITION. One step: the next transaction is taken, decoded and executed (00_scope.md R2). -/

namespace Sys2Proof.Machine

/-- One step consumes one transaction of the sequence (00 R2, 10 R21). -/
def step (s : State) : Host.Outcome State Fault Refusal :=
  match s.fetch with
  | none => .fault .noTransaction
  | some (r, s') =>
    match decode r with
    | .error e => .refused (.undecodable e)
    | .ok i => exec i s'

/-- The word of an opcode-table row put in front of the sequence, so that the next step runs it. A
sequence of transactions comes from outside the block (10 R21), and this stands for that; log entry 1. -/
def State.withFetchWord (s : State) (nbits w : Nat) : State :=
  { s with pending := tableRecord nbits w :: s.pending }

end Sys2Proof.Machine
end

