-- ==== Sys2Proof/Safety.lean ====
section
/-! DEFINITION. The terms the statements are written in: the invariant of S, control addresses as ranges,
and what two states share. -/

namespace Sys2Proof.Machine

/-- A MapperState as 10 R28, R30, R31 and 42 R161 say it is. -/
abbrev MapperState.wf (m : MapperState) : Prop :=
  0 < m.romSize ∧ m.bankSize = bankSizeOf m.variant ∧ m.romSize % m.bankSize = 0 ∧
  m.bankCount = m.romSize / m.bankSize ∧ m.bank.length = windowsOf m.variant ∧
  (∀ b ∈ m.bank, b < m.bankCount) ∧ (m.variant = .konami → m.bankAt 0 = 0) ∧
  m.scc.isSome = decide (m.variant = .konamiSCC)

/-- The invariant of S: every MapperState is well formed, and stands at a key that `eff` can give: a key
with a secondary index is on an expanded primary slot (10 R23, R27). -/
def Block.Inv (b : Block) : Prop :=
  ∀ k m, b.mapper? k = some m → m.wf ∧ (k.secondary.isSome = true → b.isExpanded k.primary = true)

/-- A control address: `base` itself under EXACT, `base` to `last` under RANGE (30 R89). -/
def controlHit (mode : CtrlDecode) (base last a : Addr) : Prop :=
  match mode with
  | .exact => a = base
  | .range => base ≤ a ∧ a ≤ last

/-- The state after a bank-select write of register `i` at the key of `slot`, which held `m` (41 R136): the
register, and the result `Consumed(i)`. Nothing else. -/
def State.bankSelected (s : State) (slot : SlotId) (m : MapperState) (i : Nat) (value : Byte) : State :=
  { s with
    blk := s.blk.setMapper (s.blk.eff slot)
      (some { m with bank := m.bank.set i (value.toNat % m.bankCount) })
    result := .written (.consumed i) }

/-- The state after a read whose result is a location. Nothing else. -/
def State.locating (s : State) (loc : Loc) : State := { s with result := .located loc }

/-- `Rom(key, (bank * bank_size + bank_offset) mod rom_size)` (30 R86). -/
def romAt (key : EffSlot) (m : MapperState) (bank bankSize bankOffset : Nat) : Loc :=
  .rom key ((bank * bankSize + bankOffset) % m.romSize)

/-- Whether the slot operand's key holds a MapperState `m` of a variant. -/
def State.holds (s : State) (slot : SlotId) (v : Mapper) (m : MapperState) : Prop :=
  s.blk.mapper? (s.blk.eff slot) = some m ∧ m.variant = v

/-- The transactions and rows that read: they "have no side effects on block state" (20 R59). -/
def readsOnly : Instr → Bool
  | .resolve _ | .isExp _ | .translate _ _ _ | .busRead _ | .sccRegionRead _ _
  | .konamiWin0Read _ _ | .konamiWin1Read _ _ | .konamiWin2Read _ _ | .konamiWin3Read _ _
  | .sccWin0Read _ _ | .sccWin1Read _ _ | .sccWin2Read _ _ | .sccWin3Read _ _
  | .ascii8Win0Read _ _ | .ascii8Win1Read _ _ | .ascii8Win2Read _ _ | .ascii8Win3Read _ _
  | .ascii16Win0Read _ _ | .ascii16Win1Read _ _ => true
  | .select _ _ | .register _ _ _ | .unregister _ | .write _ _ _ | .busWrite _ _ | .reset _
  | .konamiSel1 _ _ _ | .konamiSel2 _ _ _ | .konamiSel3 _ _ _
  | .sccSel0 _ _ _ | .sccSel1 _ _ _ | .sccSel2 _ _ _ | .sccSccOn _ _ | .sccSel3 _ _ _
  | .ascii8Sel0 _ _ _ | .ascii8Sel1 _ _ _ | .ascii8Sel2 _ _ _ | .ascii8Sel3 _ _ _
  | .ascii16Sel0 _ _ _ | .ascii16Sel1 _ _ _ | .sccRegionWrite _ _ _ => false

/-- The window that shows an address of a mapper's page 1 or 2 (30 R84, R85). -/
def windowAt (v : Mapper) (page : Page) (offset : Off14) : Nat :=
  match v with
  | .konami | .konamiSCC | .ascii8 => (page.toNat - 1) * 2 + offset.toNat / 8192
  | .ascii16 => page.toNat - 1

/-- The offset of an address inside its bank (30 R84, R85). -/
def bankOffsetAt (v : Mapper) (offset : Off14) : Nat :=
  match v with
  | .konami | .konamiSCC | .ascii8 => offset.toNat % 8192
  | .ascii16 => offset.toNat

/-- Addresses that select nothing on a variant, by 42 R161, R166, 43 R179, 44 R191 and 45 R199: those
outside every RANGE block that the rules name, and under EXACT every address that is no base (30 R89). Of a
KonamiSCC slot, the SCC region is left out: a write there may be redirected (43 R177). -/
def selectsNothing (v : Mapper) (mode : CtrlDecode) (a : Addr) : Prop :=
  match v with
  | .konami => a.toNat < 0x6000 ∨ 0xC000 ≤ a.toNat ∨
      (mode = .exact ∧ a.toNat ∉ [0x6000, 0x8000, 0xA000])
  | .konamiSCC => ¬ (0x9800 ≤ a.toNat ∧ a.toNat ≤ 0x9BFF) ∧
      (a.toNat < 0x5000 ∨ 0xC000 ≤ a.toNat ∨ a.toNat ∈ [0x6000, 0x8000, 0xA000] ∨
        (mode = .exact ∧ a.toNat ∉ [0x5000, 0x7000, 0x9000, 0xB000]))
  | .ascii8 => a.toNat < 0x6000 ∨ 0x8000 ≤ a.toNat ∨
      (mode = .exact ∧ a.toNat ∉ [0x6000, 0x6800, 0x7000, 0x7800])
  | .ascii16 => a.toNat < 0x6000 ∨ 0x8000 ≤ a.toNat ∨ a.toNat ∈ [0x6800, 0x7800] ∨
      (mode = .exact ∧ a.toNat ∉ [0x6000, 0x7000])

/-- Two states that share the expansion table, the MapperTable and the decode mode; their `assign` may
differ (41 R142). -/
def sameButAssign (s t : State) : Prop :=
  s.blk.exp = t.blk.exp ∧ s.blk.mappers = t.blk.mappers ∧ s.ctrlDecode = t.ctrlDecode

end Sys2Proof.Machine
end

