-- ==== Sys2Proof/Certificates/Slice0/Obligations.lean ====
section
/-! DEFINITION. The statements for the provers. Each docstring names the rules of spec/ it formalises. A
statement about a value of Config (INIT_BANKS, a ROM image, a draw) holds for every value of it. -/

open Sys2Proof Sys2Proof.Machine

/-! ## Encoding -/

/-- 30_encoding.md sections 1 to 5: the decoder reads back every well-formed instruction, with every
operand at every value. The record layout is the model's (log entries 2 and 3). -/
def Obligations.DecodeReadsBackEveryEncoding : Prop :=
  ∀ i : Instr, i.wellFormed = true → decode (encode i) = .ok i

/-- Words written out from 30_encoding.md R82, R89, R90 and 95_test_vectors.md P1 to P5 decode to the
instructions they stand for. The place of the fields above the kind and the address is the model's (log
entry 2). So is the row that a bare word of the opcode table names where several rows have it: the first
format and, with the variant code 0, the first row (log entry 3). -/
def Obligations.SpecWordsDecode : Prop :=
  decode ⟨.txn, 9 + 16 * 0x8⟩ = .ok (.reset 0b1000) ∧
  decode ⟨.txn, 1 + 16 * (2 + 4 * 0x8B)⟩ = .ok (.select 2 ⟨true, 2, 3⟩) ∧
  decode ⟨.txn, 3 + 16 * (0x01 + 256 * (4 + 8 * 131072))⟩ = .ok (.register ⟨false, 0, 1⟩ (some .ascii16) 131072) ∧
  decode ⟨.txn, 5 + 16 * (0x01 + 256 * (0x6000 + 65536 * 0x03))⟩ = .ok (.write ⟨false, 0, 1⟩ 0x6000 3) ∧
  decode ⟨.txn, 7 + 16 * 0x9C00⟩ = .ok (.busRead 0x9C00) ∧
  decodeTableWord 16 0xA000 = some (.konamiSel3 ⟨false, 0, 0⟩ 0 0) ∧
  decodeTableWord 16 0x7800 = some (.ascii8Sel3 ⟨false, 0, 0⟩ 0 0) ∧
  decodeTableWord 16 0x9BFF = some (.sccRegionRead ⟨false, 0, 0⟩ 0x3FF)

/-- 30_encoding.md section 6 (R92): a step refuses the kinds 10 to 15 by name. -/
def Obligations.UnusedKindsAreRefused : Prop :=
  ∀ (s : State) (w : Nat) (rest : List Record), s.pending = ⟨.txn, w⟩ :: rest → 10 ≤ w % 16 →
    step s = .refused (.undecodable (.unusedKind (w % 16)))

/-- 30 R82, R83 (the layout is "from general knowledge, not in source"): bytes that differ in ignored bits
only are the same SlotId, and an EffSlot is written out as `E000SSPP`. -/
def Obligations.SlotByteLayout : Prop :=
  (∀ (b : Block) (x y : Byte), x.getLsbD 7 = y.getLsbD 7 → x.extractLsb' 0 2 = y.extractLsb' 0 2 →
    (x.getLsbD 7 = true → x.extractLsb' 2 2 = y.extractLsb' 2 2) →
    b.eff (SlotId.ofByte x) = b.eff (SlotId.ofByte y)) ∧
  (∀ x : Byte, (SlotId.ofByte x).expanded = x.getLsbD 7 ∧ (SlotId.ofByte x).secondary = x.extractLsb' 2 2 ∧
    (SlotId.ofByte x).primary = x.extractLsb' 0 2) ∧
  (∀ p : BitVec 2, (effSlotByte ⟨p, none⟩).toNat = p.toNat) ∧
  ∀ p q : BitVec 2, (effSlotByte ⟨p, some q⟩).toNat = 0x80 + 4 * q.toNat + p.toNat

/-- 30 R80: the page is `a >> 14` and the offset `a & 0x3FFF`. -/
def Obligations.AddressIsCutIntoPageAndOffset : Prop :=
  ∀ a : Addr, (pageOf a).toNat = a.toNat >>> 14 ∧ (offsetOf a).toNat = a.toNat &&& 0x3FFF

/-- 30 R81, R84, R85 ("derived"): in the cartridge area, the window and the offset in it are those of the
address. -/
def Obligations.CartridgeAddressIsCutIntoWindows : Prop :=
  ∀ a : Addr, 0x4000 ≤ a.toNat → a.toNat < 0xC000 →
    pageAddr (pageOf a) (offsetOf a) = a ∧
    window8 (pageOf a) (offsetOf a) = a.toNat / 8192 - 2 ∧
    (bankOffset8 (offsetOf a)).toNat = a.toNat % 8192 ∧
    window16 (pageOf a) = a.toNat / 16384 - 1

/-- 30 R89 (the RANGE masks are "from general knowledge"): `decode` answers an entry of the table that
covers the address, and every such entry, in both modes; so no two entries of one variant overlap. No entry
of KonamiSCC meets the SCC region 0x9800 to 0x9BFF (log entry 17). -/
def Obligations.ControlDecodeIsItsTable : Prop :=
  (∀ (v : Mapper) (a : Addr) (i : Nat),
    decodeCtrl .exact v a = some i ↔ ∃ e ∈ ctrlTable, e.mapper = v ∧ e.reg = i ∧ a = e.base) ∧
  (∀ (v : Mapper) (a : Addr) (i : Nat),
    decodeCtrl .range v a = some i ↔ ∃ e ∈ ctrlTable, e.mapper = v ∧ e.reg = i ∧ a &&& e.mask = e.base) ∧
  ∀ (mode : CtrlDecode) (a : Addr) (i : Nat), decodeCtrl mode .konamiSCC a = some i →
    ¬ (0x9800 ≤ a.toNat ∧ a.toNat ≤ 0x9BFF)

/-! ## The Slot Resolver -/

/-- 10 R23 (its third case is "the spec's own choice"): the secondary index counts when both the SlotId
and the table say expanded, and is dropped otherwise; SlotIds are equal when their effective forms are. -/
def Obligations.EffectiveSlotNeedsFlagAndTable : Prop :=
  ∀ (b : Block) (x y : SlotId),
    (x.expanded = true → b.isExpanded x.primary = true → b.eff x = ⟨x.primary, some x.secondary⟩) ∧
    (x.expanded = false ∨ b.isExpanded x.primary = false → b.eff x = ⟨x.primary, none⟩) ∧
    (b.sameSlot x y = true ↔ b.eff x = b.eff y)

/-- 10 R23, R27: the MapperTable keeps its keys apart: an entry reads as it was last written, and every
other entry as before. -/
def Obligations.MapperTableKeepsKeysApart : Prop :=
  ∀ (b : Block) (k : EffSlot) (m : Option MapperState),
    (b.setMapper k m).mapper? k = m ∧ ∀ l, l ≠ k → (b.setMapper k m).mapper? l = b.mapper? l

/-- 40 R110: RESOLVE answers (eff of the page's SlotId, page, offset), and writes nothing else. -/
def Obligations.ResolveAnswersSlotPageOffset : Prop :=
  ∀ (s : State) (a : Addr) (p : Page) (o : Off14), p.toNat = a.toNat >>> 14 → o.toNat = a.toNat &&& 0x3FFF →
    exec (.resolve a) s = .next { s with result := .resolved (s.blk.eff (s.blk.assigned p)) p o }

/-- 40 R111: SELECT stores the SlotId as given at its page; the other pages, `S.exp` and `S.mappers` are
unchanged. -/
def Obligations.SelectStoresOnePage : Prop :=
  ∀ (s : State) (p : Page) (x : SlotId), ∃ b : Block,
    exec (.select p x) s = .next { s with blk := b, result := .nothing } ∧ b.assigned p = x ∧
    (∀ q, q ≠ p → b.assigned q = s.blk.assigned q) ∧ b.exp = s.blk.exp ∧ b.mappers = s.blk.mappers

/-- 40 R112: ISEXP answers `S.exp[primary]`, and writes nothing else. -/
def Obligations.IsExpAnswersTheFlag : Prop :=
  ∀ (s : State) (p : BitVec 2),
    exec (.isExp p) s = .next { s with result := .expanded (s.blk.exp.getLsbD p.toNat) }

/-- 40 R113: an expanded SlotId on a primary that is not expanded is accepted and stored, and RESOLVE
ignores its secondary index. -/
def Obligations.SecondaryIgnoredWhenNotExpanded : Prop :=
  ∀ (s : State) (p : Page) (x : SlotId) (a : Addr), x.expanded = true → s.blk.isExpanded x.primary = false →
    pageOf a = p → ∃ t : State,
      exec (.select p x) s = .next t ∧ t.blk.assigned p = x ∧ t.result = .nothing ∧
      exec (.resolve a) t = .next { t with result := .resolved ⟨x.primary, none⟩ p (offsetOf a) }

/-- 40 R114: SELECT is idempotent, and SELECTs of equal SlotIds give the same RESOLVE results. -/
def Obligations.SelectIsIdempotent : Prop :=
  (∀ (s : State) (p : Page) (x : SlotId), ∃ t : State,
    exec (.select p x) s = .next t ∧ exec (.select p x) t = .next t) ∧
  ∀ (s : State) (p : Page) (x y : SlotId) (a : Addr), s.blk.sameSlot x y = true → ∃ (t u : State) (r : Result),
    exec (.select p x) s = .next t ∧ exec (.select p y) s = .next u ∧
    exec (.resolve a) t = .next { t with result := r } ∧ exec (.resolve a) u = .next { u with result := r }

/-- 40 R115 ("derived"): after SELECT, the addresses of that page resolve to the slot, every other address
as before. -/
def Obligations.SelectIsPageGranular : Prop :=
  ∀ (s : State) (p : Page) (x : SlotId) (a : Addr), ∃ t : State, exec (.select p x) s = .next t ∧
    (a.toNat >>> 14 = p.toNat →
      exec (.resolve a) t = .next { t with result := .resolved (s.blk.eff x) (pageOf a) (offsetOf a) }) ∧
    (a.toNat >>> 14 ≠ p.toNat → ∃ r : Result,
      exec (.resolve a) s = .next { s with result := r } ∧ exec (.resolve a) t = .next { t with result := r })

/-! ## The Mapper Engine -/

/-- 41 R131, 10 R36: a REGISTER that passes its checks creates a MapperState at the key, with the INIT_BANKS
banks, and writes nothing else of S. The image count is the model's (log entry 8). -/
def Obligations.RegisterCreatesMapperState : Prop :=
  ∀ (s : State) (slot : SlotId) (v : Mapper) (n bs : Nat),
    bs = (if v = .ascii16 then 16384 else 8192) → 0 < n → n % bs = 0 → ∃ m : MapperState,
      exec (.register slot (some v.variant) n) s =
        .next { s.newImage (s.blk.eff slot) with
          blk := s.blk.setMapper (s.blk.eff slot) (some m), result := .ok } ∧
      m.variant = v ∧ m.romSize = n ∧ m.bankSize = bs ∧ m.bankCount = n / bs ∧
      m.bank.length = (if v = .ascii16 then 2 else 4) ∧
      (∀ i, i < m.bank.length → m.bankAt i =
        if v = .konami ∧ i = 0 then 0 else Config.initBanks v i (n / bs) % (n / bs)) ∧
      m.scc = if v = .konamiSCC then some false else none

/-- 60 R221, 41 R131, R143: REGISTER reports the first reason that applies, UnsupportedVariant, then ZeroSize,
then NotMultiple, as its result, and writes nothing else. ZeroSize is the spec's own choice (92 D8), and so is
that an earlier MapperState of the same slot stays (92 D11); log entry 18. -/
def Obligations.RegisterReportsFirstReason : Prop :=
  ∀ (s : State) (slot : SlotId) (n : Nat),
    (∀ v, v ∈ [none, some Variant.noMapper, some .gameMaster2, some .fmpac] →
      exec (.register slot v n) s = .next { s with result := .configError .unsupportedVariant }) ∧
    (∀ v : Mapper, n = 0 →
      exec (.register slot (some v.variant) n) s = .next { s with result := .configError .zeroSize }) ∧
    ∀ v : Mapper, n ≠ 0 → n % (if v = .ascii16 then 16384 else 8192) ≠ 0 →
      exec (.register slot (some v.variant) n) s = .next { s with result := .configError .notMultiple }

/-- 41 R132 (UNREGISTER is "the spec's own", 92 D13): the key's entry is removed, every other is kept, and
nothing changes when there is none. -/
def Obligations.UnregisterRemovesTheEntry : Prop :=
  ∀ (s : State) (slot : SlotId), ∃ b : Block,
    exec (.unregister slot) s = .next { s with blk := b, result := .nothing } ∧
    b.mapper? (s.blk.eff slot) = none ∧ (∀ k, k ≠ s.blk.eff slot → b.mapper? k = s.blk.mapper? k) ∧
    b.assign = s.blk.assign ∧ b.exp = s.blk.exp ∧
    (s.blk.mapper? (s.blk.eff slot) = none → b = s.blk)

/-- 41 R135, R133: an ordinary write leaves S unchanged. It is forwarded to Plain when the slot has no
MapperState, and otherwise discarded at the location TRANSLATE gives. That a bare WRITE to Plain hands no byte
over is DEDUCED (log entry 10); that pages 0 and 3 are Unmapped is the spec's own decision (92 D16, log
entry 18). -/
def Obligations.OrdinaryWriteLeavesBlock : Prop :=
  ∀ (s : State) (slot : SlotId) (a : Addr) (x : Byte),
    (s.blk.mapper? (s.blk.eff slot) = none → exec (.write slot a x) s =
      .next { s with result := .written (.forward (.plain (s.blk.eff slot) (pageOf a) (offsetOf a)) x) }) ∧
    ∀ m, s.blk.mapper? (s.blk.eff slot) = some m → decodeCtrl s.ctrlDecode m.variant a = none →
      ¬ (m.variant = .konamiSCC ∧ m.scc = some true ∧ 0x9800 ≤ a.toNat ∧ a.toNat ≤ 0x9BFF) → ∃ loc : Loc,
        exec (.write slot a x) s = .next { s with result := .written (.discarded loc) } ∧
        exec (.translate slot (pageOf a) (offsetOf a)) s = .next (s.locating loc) ∧
        ((∃ o, loc = .rom (s.blk.eff slot) o) ↔ pageOf a = 1 ∨ pageOf a = 2) ∧
        ((pageOf a = 0 ∨ pageOf a = 3) → loc = .unmapped (s.blk.eff slot) (pageOf a) (offsetOf a))

/-- 41 R134, R136: a write at a control address stores `value mod bank_count` in the named register, but for
0x3F at KonamiSCC register 2, which sets the flag and stores no bank. It changes no other register, no other
slot's MapperState, no `S.assign` and no `S.exp`. That another value at KonamiSCC register 2 clears the flag
is the spec's own choice (92 D19, log entry 18). -/
def Obligations.RegisterWriteChangesOnlyItsRegister : Prop :=
  ∀ (s : State) (slot : SlotId) (a : Addr) (x : Byte) (m : MapperState) (i : Nat),
    s.blk.mapper? (s.blk.eff slot) = some m → decodeCtrl s.ctrlDecode m.variant a = some i →
    ∃ (b : Block) (m' : MapperState),
      exec (.write slot a x) s = .next { s with blk := b, result := .written (.consumed i) } ∧
      b.mapper? (s.blk.eff slot) = some m' ∧
      (∀ k, k ≠ s.blk.eff slot → b.mapper? k = s.blk.mapper? k) ∧ b.assign = s.blk.assign ∧
      b.exp = s.blk.exp ∧ (∀ j, j ≠ i → m'.bankAt j = m.bankAt j) ∧
      (¬ (m.variant = .konamiSCC ∧ i = 2 ∧ x = 0x3F#8) → i < m.bank.length →
        m'.bankAt i = x.toNat % m.bankCount) ∧
      (m.variant = .konamiSCC → i = 2 → x = 0x3F#8 → m'.bankAt 2 = m.bankAt 2) ∧
      m'.scc = (if m.variant = .konamiSCC ∧ i = 2 then some (x == 0x3F#8) else m.scc) ∧
      m'.variant = m.variant ∧ m'.romSize = m.romSize ∧ m'.bankSize = m.bankSize ∧
      m'.bankCount = m.bankCount ∧ m'.bank.length = m.bank.length

/-- 41 R138, R139 (92 D22, D16): TRANSLATE gives Plain for a slot with no MapperState and Unmapped for
pages 0 and 3 of a mapper slot. -/
def Obligations.TranslateOutsideTheWindows : Prop :=
  ∀ (s : State) (slot : SlotId) (p : Page) (o : Off14),
    (s.blk.mapper? (s.blk.eff slot) = none →
      exec (.translate slot p o) s = .next (s.locating (.plain (s.blk.eff slot) p o))) ∧
    ∀ m, s.blk.mapper? (s.blk.eff slot) = some m → p = 0 ∨ p = 3 →
      exec (.translate slot p o) s = .next (s.locating (.unmapped (s.blk.eff slot) p o))

/-- 41 R140 ("derived"), R137: from a state that meets the invariant, a read of page 1 or 2 gives the byte of
the image at `bank * bank_size + bank_offset`, `bank` being that of the window (its register; 0 in Konami
window 0): the final reduction changes nothing. In the active SCC region it gives a register of the SCC
block. -/
def Obligations.WindowReadStaysInsideImage : Prop :=
  ∀ (s : State) (slot : SlotId) (v : Mapper) (m : MapperState) (p : Page) (o : Off14) (bank : Nat),
    s.blk.Inv → s.holds slot v m → p = 1 ∨ p = 2 →
    bank = (if v = .konami ∧ windowAt v p o = 0 then 0 else m.bankAt (windowAt v p o)) →
    bank < m.bankCount ∧ bankOffsetAt v o < m.bankSize ∧
    bank * m.bankSize + bankOffsetAt v o < m.romSize ∧
    (∀ x : BitVec 10, v = .konamiSCC → m.scc = some true → windowAt v p o = 2 → o.toNat = 0x1800 + x.toNat →
      exec (.translate slot p o) s = .next (s.locating (.scc (s.blk.eff slot) x))) ∧
    (¬ (v = .konamiSCC ∧ m.scc = some true ∧ windowAt v p o = 2 ∧ 0x1800 ≤ o.toNat ∧ o.toNat ≤ 0x1BFF) →
      exec (.translate slot p o) s =
        .next (s.locating (.rom (s.blk.eff slot) (bank * m.bankSize + bankOffsetAt v o))))

/-- 41 R142 (92 D37): WRITE and TRANSLATE do not read `S.assign`. -/
def Obligations.WriteAndTranslateIgnoreAssign : Prop :=
  ∀ (s u : State), sameButAssign s u →
    (∀ (slot : SlotId) (a : Addr) (x : Byte), ∃ (b c : Block) (r : Result),
      exec (.write slot a x) s = .next { s with blk := b, result := r } ∧
      exec (.write slot a x) u = .next { u with blk := c, result := r } ∧
      b.mappers = c.mappers ∧ b.assign = s.blk.assign ∧ c.assign = u.blk.assign) ∧
    ∀ (slot : SlotId) (p : Page) (o : Off14), ∃ loc : Loc,
      exec (.translate slot p o) s = .next (s.locating loc) ∧
      exec (.translate slot p o) u = .next (u.locating loc)

/-- 20 R66, 70 R244, 41 R136: the bank that a write selects shows at once in the window its register
drives, in every variant, but for the value 0x3F at KonamiSCC register 2. Which window an ASCII8 or ASCII16
register drives is the spec's own choice (92 D15, log entries 16 and 18), and so is that another value at
KonamiSCC register 2 ends the redirect (92 D19, log entry 18). -/
def Obligations.BankWriteShowsAtOnce : Prop :=
  ∀ (s : State) (slot : SlotId) (v : Mapper) (m : MapperState) (a : Addr) (x : Byte) (i : Nat),
    s.holds slot v m → decodeCtrl s.ctrlDecode v a = some i → i < m.bank.length →
    ¬ (v = .konamiSCC ∧ i = 2 ∧ x = 0x3F#8) → ∃ t : State,
      exec (.write slot a x) s = .next t ∧
      ∀ (p : Page) (o : Off14), p = 1 ∨ p = 2 → windowAt v p o = i →
        exec (.translate slot p o) t = .next (t.locating (romAt (s.blk.eff slot) m
          (x.toNat % m.bankCount) (if v = .ascii16 then 16384 else 8192) (bankOffsetAt v o)))

/-! ## Konami -/

/-- 42 R162, R163, R164: the three selects store `value mod bank_count`, as a WRITE in either mode and as
the row, and change nothing else. The RANGE blocks are the rules' own, on masks "from general knowledge"
(30 R89, log entry 16). -/
def Obligations.KonamiSelectsStoreBank : Prop :=
  ∀ (s : State) (slot : SlotId) (m : MapperState) (a : Addr) (off : BitVec 13) (x : Byte),
    s.holds slot .konami m →
    (controlHit s.ctrlDecode 0x6000 0x7FFF a →
      exec (.write slot a x) s = .next (s.bankSelected slot m 1 x) ∧
      (a.toNat = 0x6000 + off.toNat → exec (.konamiSel1 slot off x) s = .next (s.bankSelected slot m 1 x))) ∧
    (controlHit s.ctrlDecode 0x8000 0x9FFF a →
      exec (.write slot a x) s = .next (s.bankSelected slot m 2 x) ∧
      (a.toNat = 0x8000 + off.toNat → exec (.konamiSel2 slot off x) s = .next (s.bankSelected slot m 2 x))) ∧
    (controlHit s.ctrlDecode 0xA000 0xBFFF a →
      exec (.write slot a x) s = .next (s.bankSelected slot m 3 x) ∧
      (a.toNat = 0xA000 + off.toNat → exec (.konamiSel3 slot off x) s = .next (s.bankSelected slot m 3 x)))

/-- 42 R165: TRANSLATE of page 1 or 2 of a Konami slot, and the four window rows. -/
def Obligations.KonamiReadRule : Prop :=
  ∀ (s : State) (slot : SlotId) (m : MapperState), s.holds slot .konami m →
    (∀ (p : Page) (o : Off14) (w : Nat), p = 1 ∨ p = 2 → w = (p.toNat - 1) * 2 + o.toNat / 8192 →
      exec (.translate slot p o) s = .next (s.locating
        (romAt (s.blk.eff slot) m (if w = 0 then 0 else m.bankAt w) 8192 (o.toNat % 8192)))) ∧
    ∀ off : BitVec 13,
      exec (.konamiWin0Read slot off) s = .next (s.locating (romAt (s.blk.eff slot) m 0 8192 off.toNat)) ∧
      exec (.konamiWin1Read slot off) s =
        .next (s.locating (romAt (s.blk.eff slot) m (m.bankAt 1) 8192 off.toNat)) ∧
      exec (.konamiWin2Read slot off) s =
        .next (s.locating (romAt (s.blk.eff slot) m (m.bankAt 2) 8192 off.toNat)) ∧
      exec (.konamiWin3Read slot off) s =
        .next (s.locating (romAt (s.blk.eff slot) m (m.bankAt 3) 8192 off.toNat))

/-- 42 R161: a write anywhere in 0x4000 to 0x5FFF of a Konami slot is discarded in both modes, at the byte
of bank 0 (in an image of at least one bank) that TRANSLATE shows there. -/
def Obligations.KonamiWindowZeroIsFixed : Prop :=
  ∀ (s : State) (slot : SlotId) (m : MapperState) (a : Addr) (x : Byte), s.holds slot .konami m →
    8192 ≤ m.romSize → 0x4000 ≤ a.toNat → a.toNat ≤ 0x5FFF →
    exec (.write slot a x) s =
      .next { s with result := .written (.discarded (.rom (s.blk.eff slot) (a.toNat - 0x4000))) } ∧
    exec (.translate slot (pageOf a) (offsetOf a)) s =
      .next (s.locating (.rom (s.blk.eff slot) (a.toNat - 0x4000)))

/-! ## Konami+SCC -/

/-- 43 R171, R172, R175: the selects of windows 0, 1 and 3 store `value mod bank_count` (0x3F too), and
change nothing else. The RANGE blocks are the rules' own (30 R89, log entry 16). -/
def Obligations.SccSelectsStoreBank : Prop :=
  ∀ (s : State) (slot : SlotId) (m : MapperState) (a : Addr) (off : BitVec 11) (x : Byte),
    s.holds slot .konamiSCC m →
    (controlHit s.ctrlDecode 0x5000 0x57FF a →
      exec (.write slot a x) s = .next (s.bankSelected slot m 0 x) ∧
      (a.toNat = 0x5000 + off.toNat → exec (.sccSel0 slot off x) s = .next (s.bankSelected slot m 0 x))) ∧
    (controlHit s.ctrlDecode 0x7000 0x77FF a →
      exec (.write slot a x) s = .next (s.bankSelected slot m 1 x) ∧
      (a.toNat = 0x7000 + off.toNat → exec (.sccSel1 slot off x) s = .next (s.bankSelected slot m 1 x))) ∧
    (controlHit s.ctrlDecode 0xB000 0xB7FF a →
      exec (.write slot a x) s = .next (s.bankSelected slot m 3 x) ∧
      (a.toNat = 0xB000 + off.toNat → exec (.sccSel3 slot off x) s = .next (s.bankSelected slot m 3 x)))

/-- 43 R173 ("Clearing the flag is the spec's own choice"): a value other than 0x3F at register 2 stores
`value mod bank_count` and clears the flag. -/
def Obligations.SccSelectTwoEndsRedirect : Prop :=
  ∀ (s t : State) (slot : SlotId) (m : MapperState) (a : Addr) (off : BitVec 11) (x : Byte),
    s.holds slot .konamiSCC m → x ≠ 0x3F#8 → controlHit s.ctrlDecode 0x9000 0x97FF a →
    t = { s with
      blk := s.blk.setMapper (s.blk.eff slot)
        (some { m with bank := m.bank.set 2 (x.toNat % m.bankCount), scc := some false })
      result := .written (.consumed 2) } →
    exec (.write slot a x) s = .next t ∧
    (a.toNat = 0x9000 + off.toNat → exec (.sccSel2 slot off x) s = .next t)

/-- 43 R174: the value 0x3F at register 2 sets the flag and writes no bank. The RANGE block is the rule's own
(30 R89, log entry 16). -/
def Obligations.SccOnSetsFlagAndKeepsBank : Prop :=
  ∀ (s t : State) (slot : SlotId) (m : MapperState) (a : Addr) (off : BitVec 11),
    s.holds slot .konamiSCC m → controlHit s.ctrlDecode 0x9000 0x97FF a →
    t = { s with
      blk := s.blk.setMapper (s.blk.eff slot) (some { m with scc := some true })
      result := .written (.consumed 2) } →
    exec (.write slot a 0x3F) s = .next t ∧
    (a.toNat = 0x9000 + off.toNat → exec (.sccSccOn slot off) s = .next t)

/-- 43 R176: TRANSLATE of page 1 or 2 of a KonamiSCC slot, the four window rows and the region row. -/
def Obligations.SccReadRule : Prop :=
  ∀ (s : State) (slot : SlotId) (m : MapperState), s.holds slot .konamiSCC m →
    (∀ (p : Page) (o : Off14) (w : Nat), p = 1 ∨ p = 2 → w = (p.toNat - 1) * 2 + o.toNat / 8192 →
      (∀ x : BitVec 10, w = 2 → m.scc = some true → o.toNat = 0x1800 + x.toNat →
        exec (.translate slot p o) s = .next (s.locating (.scc (s.blk.eff slot) x))) ∧
      (¬ (w = 2 ∧ m.scc = some true ∧ 0x1800 ≤ o.toNat ∧ o.toNat ≤ 0x1BFF) →
        exec (.translate slot p o) s = .next (s.locating
          (romAt (s.blk.eff slot) m (m.bankAt w) 8192 (o.toNat % 8192))))) ∧
    (∀ off : BitVec 13,
      exec (.sccWin0Read slot off) s =
        .next (s.locating (romAt (s.blk.eff slot) m (m.bankAt 0) 8192 off.toNat)) ∧
      exec (.sccWin1Read slot off) s =
        .next (s.locating (romAt (s.blk.eff slot) m (m.bankAt 1) 8192 off.toNat)) ∧
      (∀ x : BitVec 10, m.scc = some true → off.toNat = 0x1800 + x.toNat →
        exec (.sccWin2Read slot off) s = .next (s.locating (.scc (s.blk.eff slot) x))) ∧
      (¬ (m.scc = some true ∧ 0x1800 ≤ off.toNat ∧ off.toNat ≤ 0x1BFF) →
        exec (.sccWin2Read slot off) s =
          .next (s.locating (romAt (s.blk.eff slot) m (m.bankAt 2) 8192 off.toNat))) ∧
      exec (.sccWin3Read slot off) s =
        .next (s.locating (romAt (s.blk.eff slot) m (m.bankAt 3) 8192 off.toNat))) ∧
    ∀ x : BitVec 10, m.scc = some true →
      exec (.sccRegionRead slot x) s = .next (s.locating (.scc (s.blk.eff slot) x))

/-- 43 R177: a write to the region while the flag is 1 is forwarded to the SCC with S unchanged, and the
device receives the byte: by the row, and on the bus when page 2 resolves to the slot. The transaction WRITE
alone returns the outcome (log entry 10). -/
def Obligations.SccRegionWriteReachesDevice : Prop :=
  ∀ (s : State) (slot : SlotId) (m : MapperState) (a : Addr) (off : BitVec 10) (x : Byte) (loc : Loc),
    s.holds slot .konamiSCC m → m.scc = some true → a.toNat = 0x9800 + off.toNat →
    loc = .scc (s.blk.eff slot) off →
    exec (.write slot a x) s = .next { s with result := .written (.forward loc x) } ∧
    exec (.sccRegionWrite slot off x) s =
      .next { s with deliveries := s.deliveries ++ [⟨loc, x⟩], result := .written (.forward loc x) } ∧
    (s.blk.eff (s.blk.assigned 2) = s.blk.eff slot → exec (.busWrite a x) s =
      .next { s with deliveries := s.deliveries ++ [⟨loc, x⟩], result := .written (.forward loc x) })

/-- 43 R178 ("derived"): while the flag is not 1, the region is like the rest of window 2: a read gives ROM
and a write is discarded. R178 speaks of reads and writes; that the two region rows then act as that TRANSLATE
and that WRITE is the model's choice (log entry 11). -/
def Obligations.SccRegionIsRomWhileFlagClear : Prop :=
  ∀ (s : State) (slot : SlotId) (m : MapperState) (a : Addr) (off : BitVec 10) (x : Byte) (loc : Loc),
    s.holds slot .konamiSCC m → m.scc ≠ some true → a.toNat = 0x9800 + off.toNat →
    loc = romAt (s.blk.eff slot) m (m.bankAt 2) 8192 (a.toNat - 0x8000) →
    exec (.translate slot (pageOf a) (offsetOf a)) s = .next (s.locating loc) ∧
    exec (.sccRegionRead slot off) s = .next (s.locating loc) ∧
    exec (.write slot a x) s = .next { s with result := .written (.discarded loc) } ∧
    exec (.sccRegionWrite slot off x) s = .next { s with result := .written (.discarded loc) }

/-! ## ASCII8 and ASCII16 -/

/-- 44 R186 to R189 (R185: "The order is the spec's own choice"): each select stores `value mod bank_count`
in its window's register, and changes nothing else. -/
def Obligations.Ascii8SelectsStoreBank : Prop :=
  ∀ (s : State) (slot : SlotId) (m : MapperState) (a : Addr) (off : BitVec 11) (x : Byte),
    s.holds slot .ascii8 m →
    (controlHit s.ctrlDecode 0x6000 0x67FF a →
      exec (.write slot a x) s = .next (s.bankSelected slot m 0 x) ∧
      (a.toNat = 0x6000 + off.toNat → exec (.ascii8Sel0 slot off x) s = .next (s.bankSelected slot m 0 x))) ∧
    (controlHit s.ctrlDecode 0x6800 0x6FFF a →
      exec (.write slot a x) s = .next (s.bankSelected slot m 1 x) ∧
      (a.toNat = 0x6800 + off.toNat → exec (.ascii8Sel1 slot off x) s = .next (s.bankSelected slot m 1 x))) ∧
    (controlHit s.ctrlDecode 0x7000 0x77FF a →
      exec (.write slot a x) s = .next (s.bankSelected slot m 2 x) ∧
      (a.toNat = 0x7000 + off.toNat → exec (.ascii8Sel2 slot off x) s = .next (s.bankSelected slot m 2 x))) ∧
    (controlHit s.ctrlDecode 0x7800 0x7FFF a →
      exec (.write slot a x) s = .next (s.bankSelected slot m 3 x) ∧
      (a.toNat = 0x7800 + off.toNat → exec (.ascii8Sel3 slot off x) s = .next (s.bankSelected slot m 3 x)))

/-- 44 R190: TRANSLATE of page 1 or 2 of an ASCII8 slot, and the four window rows. -/
def Obligations.Ascii8ReadRule : Prop :=
  ∀ (s : State) (slot : SlotId) (m : MapperState), s.holds slot .ascii8 m →
    (∀ (p : Page) (o : Off14), p = 1 ∨ p = 2 →
      exec (.translate slot p o) s = .next (s.locating (romAt (s.blk.eff slot) m
        (m.bankAt ((p.toNat - 1) * 2 + o.toNat / 8192)) 8192 (o.toNat % 8192)))) ∧
    ∀ off : BitVec 13,
      exec (.ascii8Win0Read slot off) s =
        .next (s.locating (romAt (s.blk.eff slot) m (m.bankAt 0) 8192 off.toNat)) ∧
      exec (.ascii8Win1Read slot off) s =
        .next (s.locating (romAt (s.blk.eff slot) m (m.bankAt 1) 8192 off.toNat)) ∧
      exec (.ascii8Win2Read slot off) s =
        .next (s.locating (romAt (s.blk.eff slot) m (m.bankAt 2) 8192 off.toNat)) ∧
      exec (.ascii8Win3Read slot off) s =
        .next (s.locating (romAt (s.blk.eff slot) m (m.bankAt 3) 8192 off.toNat))

/-- 45 R196, R197 (the order of 92 D15 is the spec's own choice): each select stores `value mod bank_count`
in its window's register, and changes nothing else. -/
def Obligations.Ascii16SelectsStoreBank : Prop :=
  ∀ (s : State) (slot : SlotId) (m : MapperState) (a : Addr) (off : BitVec 11) (x : Byte),
    s.holds slot .ascii16 m →
    (controlHit s.ctrlDecode 0x6000 0x67FF a →
      exec (.write slot a x) s = .next (s.bankSelected slot m 0 x) ∧
      (a.toNat = 0x6000 + off.toNat → exec (.ascii16Sel0 slot off x) s = .next (s.bankSelected slot m 0 x))) ∧
    (controlHit s.ctrlDecode 0x7000 0x77FF a →
      exec (.write slot a x) s = .next (s.bankSelected slot m 1 x) ∧
      (a.toNat = 0x7000 + off.toNat → exec (.ascii16Sel1 slot off x) s = .next (s.bankSelected slot m 1 x)))

/-- 45 R198: TRANSLATE of page 1 or 2 of an ASCII16 slot, and the two window rows. -/
def Obligations.Ascii16ReadRule : Prop :=
  ∀ (s : State) (slot : SlotId) (m : MapperState), s.holds slot .ascii16 m →
    (∀ (p : Page) (o : Off14), p = 1 ∨ p = 2 →
      exec (.translate slot p o) s = .next (s.locating (romAt (s.blk.eff slot) m
        (m.bankAt (p.toNat - 1)) 16384 o.toNat))) ∧
    ∀ off : BitVec 14,
      exec (.ascii16Win0Read slot off) s =
        .next (s.locating (romAt (s.blk.eff slot) m (m.bankAt 0) 16384 off.toNat)) ∧
      exec (.ascii16Win1Read slot off) s =
        .next (s.locating (romAt (s.blk.eff slot) m (m.bankAt 1) 16384 off.toNat))

/-- 42 R166, 43 R179, 44 R191, 45 R199 ("derived"): the addresses these rules list select nothing: the
write is discarded at the location TRANSLATE gives, and leaves S unchanged. -/
def Obligations.UnmatchedWritesAreDiscarded : Prop :=
  ∀ (s : State) (slot : SlotId) (v : Mapper) (m : MapperState) (a : Addr) (x : Byte),
    s.holds slot v m → selectsNothing v s.ctrlDecode a → ∃ loc : Loc,
      exec (.write slot a x) s = .next { s with result := .written (.discarded loc) } ∧
      exec (.translate slot (pageOf a) (offsetOf a)) s = .next (s.locating loc)

/-! ## The bus path -/

/-- 46 R205: BUSREAD gives the location TRANSLATE gives for the resolved slot, and its byte: of the ROM
image for Rom, a draw otherwise. S is unchanged; a draw advances the model's counter (log entry 7). -/
def Obligations.BusReadComposesTheStages : Prop :=
  ∀ (s : State) (a : Addr), ∃ loc : Loc,
    exec (.translate (s.blk.assigned (pageOf a)) (pageOf a) (offsetOf a)) s = .next (s.locating loc) ∧
    ((∃ k o m, loc = .rom k o ∧ s.blk.mapper? k = some m ∧
        exec (.busRead a) s = .next { s with result := .read loc (Config.romImage k (s.imageAt k) o) }) ∨
      ((∀ k o, loc ≠ .rom k o) ∧
        exec (.busRead a) s =
          .next { s with draws := s.draws + 1, result := .read loc (Config.draw s.draws) }))

/-- 46 R206: BUSWRITE has the effect and the outcome of the WRITE to the resolved slot, and hands a
forwarded byte to its collaborator. -/
def Obligations.BusWriteComposesTheStages : Prop :=
  ∀ (s : State) (a : Addr) (x : Byte), ∃ (b : Block) (out : WriteOutcome),
    exec (.write (s.blk.assigned (pageOf a)) a x) s = .next { s with blk := b, result := .written out } ∧
    exec (.busWrite a x) s = .next { s with
      blk := b
      deliveries := s.deliveries ++ (match out with
        | .forward loc y => [⟨loc, y⟩]
        | _ => [])
      result := .written out }

/-- 46 R208 ("derived"): a bus write touches no mapper but that of the page it is written in, and reaches a
register of that mapper whichever page the register drives. -/
def Obligations.BusWriteReachesItsPageOnly : Prop :=
  (∀ (s : State) (a : Addr) (x : Byte), ∃ t : State, exec (.busWrite a x) s = .next t ∧
    ∀ k, k ≠ s.blk.eff (s.blk.assigned (pageOf a)) → t.blk.mapper? k = s.blk.mapper? k) ∧
  ∀ (s : State) (x : Byte) (m : MapperState), s.holds (s.blk.assigned 1) .ascii8 m →
    exec (.busWrite 0x7000 x) s = .next (s.bankSelected (s.blk.assigned 1) m 2 x)

/-! ## Reset, order and the whole machine -/

/-- 70 R240, 10 R35 ("Emptying `S.mappers` is the spec's own choice"): RESET writes all of S. -/
def Obligations.ResetWritesAllOfBlock : Prop :=
  ∀ (s : State) (e : BitVec 4), ∃ b : Block,
    exec (.reset e) s = .next { s with blk := b, result := .nothing } ∧ b.exp = e ∧
    (∀ p, b.assigned p = ⟨false, 0, 0⟩) ∧ ∀ k, b.mapper? k = none

/-- 10 R35: State.reset. The value 0b0000 of the expansion table is the model's choice (log entry 4), EXACT
the spec's default (92 D14). -/
def Obligations.ResetStateMeetsInvariant : Prop :=
  State.reset.blk.Inv ∧ (∀ p, State.reset.blk.assigned p = ⟨false, 0, 0⟩) ∧ State.reset.blk.exp = 0 ∧
  (∀ k, State.reset.blk.mapper? k = none) ∧ State.reset.ctrlDecode = .exact

/-- 10 R28, R30, R31, R27, 42 R161: every step keeps the invariant: every bank register is below
`bank_count`, the geometry fits together, Konami's register 0 is 0, the SCC flag is there for KonamiSCC
only, and a key with a secondary index is on an expanded primary. -/
def Obligations.EveryStepKeepsInvariant : Prop :=
  ∀ s t : State, s.blk.Inv → step s = .next t → t.blk.Inv

/-- 00 R2, 10 R21: a step runs the decoded instruction of the oldest pending record, on the state with that
record taken; with none pending the machine stops (log entry 1). -/
def Obligations.StepRunsDecodedInstruction : Prop :=
  (∀ (s : State) (r : Record) (rest : List Record) (i : Instr), s.pending = r :: rest → decode r = .ok i →
    step s = exec i { s with pending := rest }) ∧
  ∀ s : State, s.pending = [] → step s = .fault .noTransaction

/-- 60 R222, R220, 41 R143: every instruction completes in every state, with the pending transactions (log
entry 1) and the mode (log entry 5) as they were; only REGISTER reports a ConfigError, which is its result
(log entry 12), and then S is unchanged (for the same slot by the spec's own choice, 92 D11). A row completes
as the transaction it decodes (log entry 11). -/
def Obligations.EveryInstructionCompletes : Prop :=
  ∀ (i : Instr) (s : State), ∃ t : State, exec i s = .next t ∧ t.pending = s.pending ∧
    t.ctrlDecode = s.ctrlDecode ∧
    ∀ r, t.result = .configError r → (∃ slot v n, i = .register slot v n) ∧ t.blk = s.blk

/-- 20 R59, 10 R25 to R28: in every state every instruction completes; a read leaves S and hands nothing over;
and an instruction that changes S is SELECT, REGISTER, UNREGISTER, RESET, or a write (a WRITE, a row that
decodes one, or a BUSWRITE at the slot of its page) whose address decodes to a register of the target slot's
mapper. That a row is the write it decodes in every state is the model's (log entry 11). -/
def Obligations.BlockChangesOnlyByItsWriters : Prop :=
  ∀ (i : Instr) (s : State), ∃ t : State, exec i s = .next t ∧
    (readsOnly i = true → t.blk = s.blk ∧ t.deliveries = s.deliveries ∧ t.images = s.images) ∧
    (t.blk ≠ s.blk →
      (∃ p x, i = .select p x) ∨ (∃ slot v n, i = .register slot v n) ∨ (∃ slot, i = .unregister slot) ∨
      (∃ e, i = .reset e) ∨
      ∃ slot a x m r, (i.transaction = .write slot a x ∨
          (i = .busWrite a x ∧ slot = s.blk.assigned (pageOf a))) ∧
        s.blk.mapper? (s.blk.eff slot) = some m ∧ decodeCtrl s.ctrlDecode m.variant a = some r)

/-- 10 R25, R26: only SELECT and RESET write `S.assign`, and only RESET writes `S.exp`. -/
def Obligations.SlotTablesHaveFewWriters : Prop :=
  ∀ (i : Instr) (s t : State), exec i s = .next t →
    (t.blk.assign ≠ s.blk.assign → (∃ p x, i = .select p x) ∨ ∃ e, i = .reset e) ∧
    (t.blk.exp ≠ s.blk.exp → ∃ e, i = .reset e)

/-- 10 R27, R28: only REGISTER, UNREGISTER and RESET create or remove an entry of the MapperTable, and no
other instruction changes an entry's variant, sizes or bank count. -/
def Obligations.GeometryIsFixedAtRegistration : Prop :=
  ∀ (i : Instr) (s t : State) (k : EffSlot), exec i s = .next t →
    (∀ slot v n, i ≠ .register slot v n) → (∀ slot, i ≠ .unregister slot) → (∀ e, i ≠ .reset e) →
    (s.blk.mapper? k = none → t.blk.mapper? k = none) ∧
    ∀ m, s.blk.mapper? k = some m → ∃ m', t.blk.mapper? k = some m' ∧ m'.variant = m.variant ∧
      m'.romSize = m.romSize ∧ m'.bankSize = m.bankSize ∧ m'.bankCount = m.bankCount

/-- 41 R134, R137, 30 R89, R84, R85 (log entry 11): each row of the decode tables, in every state, is the
WRITE or TRANSLATE it decodes; SCC.REGION_WRITE is its WRITE and the delivery of the byte the WRITE forwards
to the SCC (log entry 10). -/
def Obligations.RowsAreTheTransactionsTheyDecode : Prop :=
  (∀ (i : Instr) (s : State), (∀ slot off x, i ≠ .sccRegionWrite slot off x) →
    exec i s = exec i.transaction s) ∧
  ∀ (s : State) (slot : SlotId) (a : Addr) (off : BitVec 10) (x : Byte), a.toNat = 0x9800 + off.toNat →
    ∃ (b : Block) (out : WriteOutcome),
      exec (.write slot a x) s = .next { s with blk := b, result := .written out } ∧
      exec (.sccRegionWrite slot off x) s = .next { s with
        blk := b
        deliveries := s.deliveries ++ (match out with
          | .forward (.scc k o) y => [⟨.scc k o, y⟩]
          | _ => [])
        result := .written out }

/-- 70 R243 ("derived"): SELECT and REGISTER commute on everything but the last result. -/
def Obligations.SelectAndRegisterCommute : Prop :=
  ∀ (s : State) (p : Page) (x slot : SlotId) (v : Option Variant) (n : Nat), ∃ t1 t2 u1 u2 : State,
    exec (.select p x) s = .next t1 ∧ exec (.register slot v n) t1 = .next t2 ∧
    exec (.register slot v n) s = .next u1 ∧ exec (.select p x) u1 = .next u2 ∧
    t2.blk = u2.blk ∧ t2.images = u2.images ∧ t2.deliveries = u2.deliveries ∧ t2.draws = u2.draws ∧
    t2.result = u1.result

/-- 41 R131 ("Registering again on a slot that has a MapperState replaces it with a fresh one"), 10 R20: the
same REGISTER twice in a row leaves the S and gives the result of one. -/
def Obligations.RegisterIsIdempotentOnBlock : Prop :=
  ∀ (s : State) (slot : SlotId) (v : Option Variant) (n : Nat), ∃ t u : State,
    exec (.register slot v n) s = .next t ∧ exec (.register slot v n) t = .next u ∧
    u.blk = t.blk ∧ u.result = t.result
end

