-- ==== Sys2Proof/Laws/Bits.lean ====
section
/-! SUPPORT. Fields of records and of addresses. -/

namespace Sys2Proof

@[simp] theorem takeBits_putBits {n : Nat} (f : BitVec n) (r : Nat) : takeBits n (putBits f r) = (f, r) := by
  have h := f.isLt
  have hp : 0 < 2 ^ n := Nat.two_pow_pos n
  refine Prod.ext ?_ ?_
  · apply BitVec.eq_of_toNat_eq
    simp [takeBits, putBits, Nat.add_mul_mod_self_left, Nat.mod_eq_of_lt h]
  · simp [takeBits, putBits, Nat.add_mul_div_left _ _ hp, Nat.div_eq_of_lt h]

@[simp] theorem finishRecord_zero (i : Instr) : finishRecord 0 i = .ok i := rfl

@[simp] theorem ofByte_toByte (s : SlotId) : SlotId.ofByte s.toByte = s := by
  obtain ⟨e, q, p⟩ := s
  revert e q p
  decide

@[simp] theorem ofCode_toCode (v : Option Variant) : Variant.ofCode (Variant.toCode v) = v := by
  rcases v with _ | v
  · rfl
  · cases v <;> rfl

@[simp] theorem mapper?_variant (m : Mapper) : m.variant.mapper? = some m := by cases m <;> rfl

theorem toCode_variant_ne_zero (m : Mapper) : Variant.toCode (some m.variant) ≠ 0#3 := by
  cases m <;> decide

@[simp] theorem ofByte_false_primary (s : SlotId) : (SlotId.ofByte s.toByte).primary = s.primary := by simp

/-! ## Addresses as numbers -/

theorem regionAddr_toNat (r : BitVec 3) (off : BitVec 13) :
    (regionAddr r off).toNat = r.toNat * 8192 + off.toNat := by
  have h := off.isLt
  rw [regionAddr, BitVec.toNat_append, ← Nat.shiftLeft_add_eq_or_of_lt h, Nat.shiftLeft_eq]

theorem blockAddr_toNat (r : BitVec 5) (off : BitVec 11) :
    (blockAddr r off).toNat = r.toNat * 2048 + off.toNat := by
  have h := off.isLt
  rw [blockAddr, BitVec.toNat_append, ← Nat.shiftLeft_add_eq_or_of_lt h, Nat.shiftLeft_eq]

theorem pageAddr_toNat (p : Page) (off : Off14) : (pageAddr p off).toNat = p.toNat * 16384 + off.toNat := by
  have h := off.isLt
  rw [pageAddr, BitVec.toNat_append, ← Nat.shiftLeft_add_eq_or_of_lt h, Nat.shiftLeft_eq]

theorem sccRegionAddr_toNat (off : BitVec 10) : (sccRegionAddr off).toNat = 38912 + off.toNat := by
  have h := off.isLt
  rw [sccRegionAddr, BitVec.toNat_append, ← Nat.shiftLeft_add_eq_or_of_lt h, Nat.shiftLeft_eq]
  rfl

theorem extract_toNat {w : Nat} (a : BitVec w) (lo len : Nat) :
    (a.extractLsb' lo len).toNat = a.toNat / 2 ^ lo % 2 ^ len := by
  simp [BitVec.extractLsb', Nat.shiftRight_eq_div_pow]

/-- The RANGE mask of Konami keeps the 8 KB region of an address. -/
theorem and_rangeMask8K (a : Addr) : (a &&& 0xE000#16).toNat = a.toNat / 8192 * 8192 := by
  have h : a &&& 0xE000#16 = (a >>> 13) <<< 13 := by
    apply BitVec.eq_of_getLsbD_eq
    intro i hi
    have hi' : i < 16 := hi
    interval_cases i <;> simp
  have hlt := a.isLt
  rw [h, BitVec.toNat_shiftLeft, BitVec.toNat_ushiftRight, Nat.shiftRight_eq_div_pow, Nat.shiftLeft_eq]
  omega

/-- The RANGE mask of the other variants keeps the 2 KB block of an address. -/
theorem and_rangeMask2K (a : Addr) : (a &&& 0xF800#16).toNat = a.toNat / 2048 * 2048 := by
  have h : a &&& 0xF800#16 = (a >>> 11) <<< 11 := by
    apply BitVec.eq_of_getLsbD_eq
    intro i hi
    have hi' : i < 16 := hi
    interval_cases i <;> simp
  have hlt := a.isLt
  rw [h, BitVec.toNat_shiftLeft, BitVec.toNat_ushiftRight, Nat.shiftRight_eq_div_pow, Nat.shiftLeft_eq]
  omega

/-- The mask of the SCC region keeps the 1 KB block of an address. -/
theorem and_regionMask1K (a : Addr) : (a &&& 0xFC00#16).toNat = a.toNat / 1024 * 1024 := by
  have h : a &&& 0xFC00#16 = (a >>> 10) <<< 10 := by
    apply BitVec.eq_of_getLsbD_eq
    intro i hi
    have hi' : i < 16 := hi
    interval_cases i <;> simp
  have hlt := a.isLt
  rw [h, BitVec.toNat_shiftLeft, BitVec.toNat_ushiftRight, Nat.shiftRight_eq_div_pow, Nat.shiftLeft_eq]
  omega

namespace Machine

theorem pageOf_toNat (a : Addr) : (pageOf a).toNat = a.toNat / 16384 := by
  have h := a.isLt
  rw [pageOf, extract_toNat]
  omega

theorem offsetOf_toNat (a : Addr) : (offsetOf a).toNat = a.toNat % 16384 := by
  rw [offsetOf, extract_toNat]
  omega

theorem bankOffset8_toNat (o : Off14) : (bankOffset8 o).toNat = o.toNat % 8192 := by
  rw [bankOffset8, extract_toNat]
  omega

theorem bit13_toNat (o : Off14) : (o.getLsbD 13).toNat = o.toNat / 8192 := by
  have h := o.isLt
  rw [BitVec.getLsbD, Nat.testBit_eq_decide_div_mod_eq]
  rcases Nat.lt_or_ge o.toNat 8192 with hlt | hge
  · have hz : o.toNat / 8192 = 0 := by omega
    simp [hz]
  · have hz : o.toNat / 8192 = 1 := by omega
    simp [hz]

/-- The 8 KB window as a number: `(page - 1) * 2` and the high bit of the offset (30 R84). -/
theorem window8_eq (p : Page) (o : Off14) : window8 p o = (p.toNat - 1) * 2 + o.toNat / 8192 := by
  rw [window8, bit13_toNat]

@[simp] theorem pageAddr_pageOf (a : Addr) : pageAddr (pageOf a) (offsetOf a) = a := by
  apply BitVec.eq_of_toNat_eq
  rw [pageAddr_toNat, pageOf_toNat, offsetOf_toNat]
  omega

@[simp] theorem pageOf_pageAddr (p : Page) (o : Off14) : pageOf (pageAddr p o) = p := by
  apply BitVec.eq_of_toNat_eq
  have h := o.isLt
  rw [pageOf_toNat, pageAddr_toNat]
  omega

@[simp] theorem offsetOf_pageAddr (p : Page) (o : Off14) : offsetOf (pageAddr p o) = o := by
  apply BitVec.eq_of_toNat_eq
  have h := o.isLt
  rw [offsetOf_toNat, pageAddr_toNat]
  omega

/-- The page and the offset of an address of an 8 KB region (30 R84). -/
theorem pageOf_regionAddr (r : BitVec 3) (off : BitVec 13) : (pageOf (regionAddr r off)).toNat = r.toNat / 2 := by
  have h := off.isLt
  rw [pageOf_toNat, regionAddr_toNat]
  omega

theorem offsetOf_regionAddr (r : BitVec 3) (off : BitVec 13) :
    (offsetOf (regionAddr r off)).toNat = r.toNat % 2 * 8192 + off.toNat := by
  have h := off.isLt
  rw [offsetOf_toNat, regionAddr_toNat]
  omega

/-- The SCC region as numbers (20 R63). -/
theorem inSccRegion_iff (a : Addr) : inSccRegion a = true ↔ 0x9800 ≤ a.toNat ∧ a.toNat ≤ 0x9BFF := by
  simp [inSccRegion, BitVec.le_def]

/-- The cartridge area is pages 1 and 2 (20 R61). -/
theorem inCartridgeArea_iff (p : Page) : inCartridgeArea p = true ↔ p = 1 ∨ p = 2 := by
  revert p; decide

/-- The offset in the SCC region of an address written as base and offset (41 R133). -/
theorem sccOffset_of_toNat {a : Addr} {off : BitVec 10} (h : a.toNat = 0x9800 + off.toNat) : sccOffset a = off := by
  apply BitVec.eq_of_toNat_eq
  have hlt := off.isLt
  simp [sccOffset, BitVec.toNat_sub, h]
  omega

end Machine

end Sys2Proof
end

