-- ==== Sys2Proof/Laws/State.lean ====
section
/-! SUPPORT. One lemma per field per update, and the tables' read-after-write laws. -/

namespace Sys2Proof.Machine

/-! ## Updates of S -/

@[simp] theorem select_exp (b : Block) (p : Page) (x : SlotId) : (b.select p x).exp = b.exp := rfl
@[simp] theorem select_mappers (b : Block) (p : Page) (x : SlotId) : (b.select p x).mappers = b.mappers := rfl
@[simp] theorem setMapper_exp (b : Block) (k : EffSlot) (m : Option MapperState) : (b.setMapper k m).exp = b.exp := rfl
@[simp] theorem setMapper_assign (b : Block) (k : EffSlot) (m : Option MapperState) :
    (b.setMapper k m).assign = b.assign := rfl

@[simp] theorem select_eff (b : Block) (p : Page) (x y : SlotId) : (b.select p x).eff y = b.eff y := rfl
@[simp] theorem setMapper_eff (b : Block) (k : EffSlot) (m : Option MapperState) (y : SlotId) :
    (b.setMapper k m).eff y = b.eff y := rfl
@[simp] theorem select_mapper? (b : Block) (p : Page) (x : SlotId) (k : EffSlot) :
    (b.select p x).mapper? k = b.mapper? k := rfl
@[simp] theorem setMapper_assigned (b : Block) (k : EffSlot) (m : Option MapperState) (p : Page) :
    (b.setMapper k m).assigned p = b.assigned p := rfl
@[simp] theorem setMapper_isExpanded (b : Block) (k : EffSlot) (m : Option MapperState) (p : BitVec 2) :
    (b.setMapper k m).isExpanded p = b.isExpanded p := rfl
@[simp] theorem select_isExpanded (b : Block) (p : Page) (x : SlotId) (q : BitVec 2) :
    (b.select p x).isExpanded q = b.isExpanded q := rfl

@[simp] theorem assigned_select_same (b : Block) (p : Page) (x : SlotId) : (b.select p x).assigned p = x := by
  simp [Block.select, Block.assigned, Vector.get_eq_getElem]

theorem assigned_select_ne (b : Block) {p q : Page} (x : SlotId) (h : q ≠ p) :
    (b.select p x).assigned q = b.assigned q := by
  have hn : p.toNat ≠ q.toNat := fun e => h (BitVec.eq_of_toNat_eq e.symm)
  simp [Block.select, Block.assigned, Vector.get_eq_getElem, Vector.getElem_set_ne _ _ hn]

/-- The MapperTable holds its 20 keys apart (10 R23). -/
theorem slotIndex_injective {k l : EffSlot} (h : slotIndex k = slotIndex l) : k = l := by
  obtain ⟨p, _ | q⟩ := k <;> obtain ⟨p', _ | q'⟩ := l
  · revert p p'; decide
  · revert p p' q'; decide
  · revert p p' q; decide
  · revert p p' q q'; decide

@[simp] theorem mapper?_setMapper_same (b : Block) (k : EffSlot) (m : Option MapperState) :
    (b.setMapper k m).mapper? k = m := by
  simp [Block.setMapper, Block.mapper?, Vector.get_eq_getElem]

theorem mapper?_setMapper_ne (b : Block) {k l : EffSlot} (m : Option MapperState) (h : l ≠ k) :
    (b.setMapper k m).mapper? l = b.mapper? l := by
  have hn : (slotIndex k).val ≠ (slotIndex l).val := fun e => h (slotIndex_injective (Fin.ext e.symm))
  simp [Block.setMapper, Block.mapper?, Vector.get_eq_getElem, Vector.getElem_set_ne _ _ hn]

theorem mapper?_setMapper (b : Block) (k l : EffSlot) (m : Option MapperState) :
    (b.setMapper k m).mapper? l = if l = k then m else b.mapper? l := by
  split
  · rename_i h; rw [h, mapper?_setMapper_same]
  · rename_i h; exact mapper?_setMapper_ne b m h

/-- A key keeps what is written last (10 R27, "at most one MapperState"). -/
@[simp] theorem setMapper_setMapper (b : Block) (k : EffSlot) (m n : Option MapperState) :
    (b.setMapper k m).setMapper k n = b.setMapper k n := by
  simp [Block.setMapper]

@[simp] theorem afterReset_mapper? (exp : BitVec 4) (k : EffSlot) : (Block.afterReset exp).mapper? k = none := by
  simp [Block.afterReset, Block.mapper?, Vector.get_eq_getElem]

@[simp] theorem afterReset_assigned (exp : BitVec 4) (p : Page) : (Block.afterReset exp).assigned p = resetSlot := by
  simp [Block.afterReset, Block.assigned, Vector.get_eq_getElem]

/-! ## Updates of a MapperState -/

@[simp] theorem selectBank_variant (m : MapperState) (i : Nat) (v : Byte) : (m.selectBank i v).variant = m.variant := rfl
@[simp] theorem selectBank_romSize (m : MapperState) (i : Nat) (v : Byte) : (m.selectBank i v).romSize = m.romSize := rfl
@[simp] theorem selectBank_bankSize (m : MapperState) (i : Nat) (v : Byte) : (m.selectBank i v).bankSize = m.bankSize := rfl
@[simp] theorem selectBank_bankCount (m : MapperState) (i : Nat) (v : Byte) : (m.selectBank i v).bankCount = m.bankCount := rfl
@[simp] theorem selectBank_scc (m : MapperState) (i : Nat) (v : Byte) : (m.selectBank i v).scc = m.scc := rfl
@[simp] theorem selectBank_bank (m : MapperState) (i : Nat) (v : Byte) :
    (m.selectBank i v).bank = m.bank.set i (v.toNat % m.bankCount) := rfl
@[simp] theorem setScc_variant (m : MapperState) (f : Bool) : (m.setScc f).variant = m.variant := rfl
@[simp] theorem setScc_romSize (m : MapperState) (f : Bool) : (m.setScc f).romSize = m.romSize := rfl
@[simp] theorem setScc_bankSize (m : MapperState) (f : Bool) : (m.setScc f).bankSize = m.bankSize := rfl
@[simp] theorem setScc_bankCount (m : MapperState) (f : Bool) : (m.setScc f).bankCount = m.bankCount := rfl
@[simp] theorem setScc_bank (m : MapperState) (f : Bool) : (m.setScc f).bank = m.bank := rfl
@[simp] theorem setScc_scc (m : MapperState) (f : Bool) : (m.setScc f).scc = some f := rfl

/-! ## Updates of the machine -/

@[simp] theorem draw_blk (s : State) : s.draw.2.blk = s.blk := rfl
@[simp] theorem draw_pending (s : State) : s.draw.2.pending = s.pending := rfl
@[simp] theorem draw_deliveries (s : State) : s.draw.2.deliveries = s.deliveries := rfl
@[simp] theorem draw_ctrlDecode (s : State) : s.draw.2.ctrlDecode = s.ctrlDecode := rfl
@[simp] theorem draw_images (s : State) : s.draw.2.images = s.images := rfl

@[simp] theorem newImage_blk (s : State) (k : EffSlot) : (s.newImage k).blk = s.blk := rfl
@[simp] theorem newImage_ctrlDecode (s : State) (k : EffSlot) : (s.newImage k).ctrlDecode = s.ctrlDecode := rfl
@[simp] theorem newImage_pending (s : State) (k : EffSlot) : (s.newImage k).pending = s.pending := rfl
@[simp] theorem newImage_result (s : State) (k : EffSlot) : (s.newImage k).result = s.result := rfl
@[simp] theorem newImage_deliveries (s : State) (k : EffSlot) : (s.newImage k).deliveries = s.deliveries := rfl
@[simp] theorem newImage_draws (s : State) (k : EffSlot) : (s.newImage k).draws = s.draws := rfl

@[simp] theorem imageAt_newImage_same (s : State) (k : EffSlot) : (s.newImage k).imageAt k = s.imageAt k + 1 := by
  simp [State.newImage, State.imageAt, Vector.get_eq_getElem]

theorem imageAt_newImage_ne (s : State) {k l : EffSlot} (h : l ≠ k) : (s.newImage k).imageAt l = s.imageAt l := by
  have hn : (slotIndex k).val ≠ (slotIndex l).val := fun e => h (slotIndex_injective (Fin.ext e.symm))
  simp [State.newImage, State.imageAt, Vector.get_eq_getElem, Vector.getElem_set_ne _ _ hn]

/-- What MemRead can do: a byte of the image, and nothing else; or a draw (20 R51 to R55). -/
theorem memRead_cases (s : State) (loc : Loc) :
    (∃ slot offset m, loc = .rom slot offset ∧ s.blk.mapper? slot = some m ∧
      s.memRead loc = (Config.romImage slot (s.imageAt slot) offset, s)) ∨
    s.memRead loc = (Config.draw s.draws, { s with draws := s.draws + 1 }) := by
  cases loc with
  | rom slot offset =>
    cases h : s.blk.mapper? slot with
    | none => right; simp [State.memRead, h, State.draw]
    | some m => left; exact ⟨slot, offset, m, rfl, h, by simp [State.memRead, h]⟩
  | scc => right; rfl
  | plain => right; rfl
  | unmapped => right; rfl

@[simp] theorem memRead_blk (s : State) (loc : Loc) : (s.memRead loc).2.blk = s.blk := by
  rcases memRead_cases s loc with ⟨_, _, _, _, _, h⟩ | h <;> rw [h]

/-- What MemWrite can do: hand over one byte, or nothing (20 R52, R55). -/
theorem memWrite_cases (s : State) (loc : Loc) (v : Byte) :
    s.memWrite loc v = { s with deliveries := s.deliveries ++ [⟨loc, v⟩] } ∨ s.memWrite loc v = s := by
  cases loc with
  | plain => left; rfl
  | scc => left; rfl
  | rom => right; rfl
  | unmapped => right; rfl

@[simp] theorem memWrite_blk (s : State) (loc : Loc) (v : Byte) : (s.memWrite loc v).blk = s.blk := by
  rcases memWrite_cases s loc v with h | h <;> rw [h]

@[simp] theorem forwardOutcome_blk (s : State) (o : WriteOutcome) : (s.forwardOutcome o).blk = s.blk := by
  cases o <;> simp [State.forwardOutcome]

end Sys2Proof.Machine
end

