-- ==== Sys2Proof/Laws/Rules.lean ====
section
/-! SUPPORT. What each shared operation of the Mapper Engine can do. -/

namespace Sys2Proof

/-- A control address under RANGE, as numbers: the entry's block holds it (30 R89). -/
theorem covers_range8K {v : Mapper} {i : Nat} {base : Addr} (a : Addr) (h : base.toNat % 8192 = 0) :
    CtrlEntry.covers ⟨v, i, base, 0xE000#16⟩ .range a = decide (a.toNat / 8192 = base.toNat / 8192) := by
  have e : (a &&& 0xE000#16 = base) ↔ a.toNat / 8192 = base.toNat / 8192 := by
    rw [← BitVec.toNat_inj, and_rangeMask8K]; omega
  simp only [CtrlEntry.covers, beq_eq_decide]
  exact decide_eq_decide.mpr e

theorem covers_range2K {v : Mapper} {i : Nat} {base : Addr} (a : Addr) (h : base.toNat % 2048 = 0) :
    CtrlEntry.covers ⟨v, i, base, 0xF800#16⟩ .range a = decide (a.toNat / 2048 = base.toNat / 2048) := by
  have e : (a &&& 0xF800#16 = base) ↔ a.toNat / 2048 = base.toNat / 2048 := by
    rw [← BitVec.toNat_inj, and_rangeMask2K]; omega
  simp only [CtrlEntry.covers, beq_eq_decide]
  exact decide_eq_decide.mpr e

theorem covers_exact (e : CtrlEntry) (a : Addr) : e.covers .exact a = decide (a.toNat = e.base.toNat) := by
  simp only [CtrlEntry.covers, beq_eq_decide]
  exact decide_eq_decide.mpr BitVec.toNat_inj.symm

/-- The register decode of each variant and mode on the address as a number (30 R89). -/
theorem decodeCtrl_konami_exact (a : Addr) : decodeCtrl .exact .konami a =
    if a.toNat = 0x6000 then some 1 else if a.toNat = 0x8000 then some 2
    else if a.toNat = 0xA000 then some 3 else none := by
  simp [decodeCtrl, ctrlTable, List.find?, covers_exact]
  repeat' split
  all_goals simp_all

theorem decodeCtrl_konami_range (a : Addr) : decodeCtrl .range .konami a =
    if a.toNat / 8192 = 3 then some 1 else if a.toNat / 8192 = 4 then some 2
    else if a.toNat / 8192 = 5 then some 3 else none := by
  simp [decodeCtrl, ctrlTable, List.find?, covers_range8K]
  repeat' split
  all_goals simp_all

theorem decodeCtrl_scc_exact (a : Addr) : decodeCtrl .exact .konamiSCC a =
    if a.toNat = 0x5000 then some 0 else if a.toNat = 0x7000 then some 1
    else if a.toNat = 0x9000 then some 2 else if a.toNat = 0xB000 then some 3 else none := by
  simp [decodeCtrl, ctrlTable, List.find?, covers_exact]
  repeat' split
  all_goals simp_all

theorem decodeCtrl_scc_range (a : Addr) : decodeCtrl .range .konamiSCC a =
    if a.toNat / 2048 = 10 then some 0 else if a.toNat / 2048 = 14 then some 1
    else if a.toNat / 2048 = 18 then some 2 else if a.toNat / 2048 = 22 then some 3 else none := by
  simp [decodeCtrl, ctrlTable, List.find?, covers_range2K]
  repeat' split
  all_goals simp_all

theorem decodeCtrl_ascii8_exact (a : Addr) : decodeCtrl .exact .ascii8 a =
    if a.toNat = 0x6000 then some 0 else if a.toNat = 0x6800 then some 1
    else if a.toNat = 0x7000 then some 2 else if a.toNat = 0x7800 then some 3 else none := by
  simp [decodeCtrl, ctrlTable, List.find?, covers_exact]
  repeat' split
  all_goals simp_all

theorem decodeCtrl_ascii8_range (a : Addr) : decodeCtrl .range .ascii8 a =
    if a.toNat / 2048 = 12 then some 0 else if a.toNat / 2048 = 13 then some 1
    else if a.toNat / 2048 = 14 then some 2 else if a.toNat / 2048 = 15 then some 3 else none := by
  simp [decodeCtrl, ctrlTable, List.find?, covers_range2K]
  repeat' split
  all_goals simp_all

theorem decodeCtrl_ascii16_exact (a : Addr) : decodeCtrl .exact .ascii16 a =
    if a.toNat = 0x6000 then some 0 else if a.toNat = 0x7000 then some 1 else none := by
  simp [decodeCtrl, ctrlTable, List.find?, covers_exact]
  repeat' split
  all_goals simp_all

theorem decodeCtrl_ascii16_range (a : Addr) : decodeCtrl .range .ascii16 a =
    if a.toNat / 2048 = 12 then some 0 else if a.toNat / 2048 = 14 then some 1 else none := by
  simp [decodeCtrl, ctrlTable, List.find?, covers_range2K]
  repeat' split
  all_goals simp_all

end Sys2Proof

namespace Sys2Proof.Machine

/-- What `on_write` can do (41 R133): forward, write one register of the key's MapperState, forward to the
SCC, or discard. Every case but the second leaves S. -/
theorem onWrite_cases (b : Block) (mode : CtrlDecode) (k : EffSlot) (a : Addr) (v : Byte) :
    (b.mapper? k = none ∧ b.onWrite mode k a v = (b, .forward (.plain k (pageOf a) (offsetOf a)) v)) ∨
    ∃ m, b.mapper? k = some m ∧
      ((∃ i, decodeCtrl mode m.variant a = some i ∧
          b.onWrite mode k a v = (b.setMapper k (some (m.writeRegister i v)), .consumed i)) ∨
       (decodeCtrl mode m.variant a = none ∧
        ((m.redirects = true ∧ inSccRegion a = true ∧
            b.onWrite mode k a v = (b, .forward (.scc k (sccOffset a)) v)) ∨
         ((m.redirects && inSccRegion a) = false ∧
            b.onWrite mode k a v = (b, .discarded (b.translate k (pageOf a) (offsetOf a))))))) := by
  cases h : b.mapper? k with
  | none => left; exact ⟨rfl, by simp [Block.onWrite, h]⟩
  | some m =>
    right
    refine ⟨m, rfl, ?_⟩
    cases hd : decodeCtrl mode m.variant a with
    | some i => left; exact ⟨i, rfl, by simp [Block.onWrite, h, hd]⟩
    | none =>
      right
      refine ⟨rfl, ?_⟩
      cases hr : m.redirects && inSccRegion a with
      | true =>
        left
        obtain ⟨h1, h2⟩ := Bool.and_eq_true_iff.mp hr
        exact ⟨h1, h2, by simp [Block.onWrite, h, hd, h1, h2]⟩
      | false => right; exact ⟨rfl, by simp [Block.onWrite, h, hd, hr]⟩

/-- The S that `on_write` leaves: unchanged, or one register of the key's MapperState written. -/
theorem onWrite_block (b : Block) (mode : CtrlDecode) (k : EffSlot) (a : Addr) (v : Byte) :
    (b.onWrite mode k a v).1 = b ∨
    ∃ m i, b.mapper? k = some m ∧ decodeCtrl mode m.variant a = some i ∧
      (b.onWrite mode k a v).1 = b.setMapper k (some (m.writeRegister i v)) := by
  rcases onWrite_cases b mode k a v with ⟨_, h⟩ | ⟨m, hm, ⟨i, hi, h⟩ | ⟨_, ⟨_, _, h⟩ | ⟨_, h⟩⟩⟩
  · left; rw [h]
  · right; exact ⟨m, i, hm, hi, by rw [h]⟩
  · left; rw [h]
  · left; rw [h]

/-- What a register rule can do: select a bank, select one and clear the flag, set the flag, or nothing. -/
theorem writeRegister_cases (m : MapperState) (i : Nat) (v : Byte) :
    m.writeRegister i v = m.selectBank i v ∨ m.writeRegister i v = m ∨
    (m.variant = .konamiSCC ∧ i = 2 ∧
      (m.writeRegister i v = (m.selectBank 2 v).setScc false ∨ m.writeRegister i v = m.setScc true)) := by
  unfold MapperState.writeRegister
  split <;> rename_i hv
  case h_6 =>
    right; right
    refine ⟨hv, rfl, ?_⟩
    split
    · right; rfl
    · left; rfl
  case h_14 => right; left; rfl
  all_goals left; rfl

/-- A register rule leaves the geometry (10 R28: "fixed at registration and never change"). -/
theorem writeRegister_geometry (m : MapperState) (i : Nat) (v : Byte) :
    (m.writeRegister i v).variant = m.variant ∧ (m.writeRegister i v).romSize = m.romSize ∧
    (m.writeRegister i v).bankSize = m.bankSize ∧ (m.writeRegister i v).bankCount = m.bankCount := by
  rcases writeRegister_cases m i v with h | h | ⟨_, _, h | h⟩ <;> rw [h] <;> simp

/-- No register decode answers Konami's register 0 (42 R161). -/
theorem decodeCtrl_konami_pos {mode : CtrlDecode} {a : Addr} {i : Nat}
    (h : decodeCtrl mode .konami a = some i) : 0 < i := by
  cases mode
  · rw [decodeCtrl_konami_exact] at h
    split_ifs at h <;> simp_all <;> omega
  · rw [decodeCtrl_konami_range] at h
    split_ifs at h <;> simp_all <;> omega

/-- Where a WRITE goes when its slot has no MapperState, as an answer (41 R135). -/
theorem execWrite_none {s : State} {slot : SlotId} (a : Addr) (v : Byte)
    (h : s.blk.mapper? (s.blk.eff slot) = none) :
    execWrite slot a v s =
      s.commit s.blk (.written (.forward (.plain (s.blk.eff slot) (pageOf a) (offsetOf a)) v)) := by
  simp [execWrite, Block.onWrite, h]

/-- A WRITE at a control address (41 R133, R134). -/
theorem execWrite_register {s : State} {slot : SlotId} {m : MapperState} {a : Addr} {i : Nat} (v : Byte)
    (h : s.blk.mapper? (s.blk.eff slot) = some m) (hi : decodeCtrl s.ctrlDecode m.variant a = some i) :
    execWrite slot a v s =
      s.commit (s.blk.setMapper (s.blk.eff slot) (some (m.writeRegister i v))) (.written (.consumed i)) := by
  simp [execWrite, Block.onWrite, h, hi]

/-- A CTRL_WRITE row is the WRITE it decodes, where its rule is the variant's rule for the register. -/
theorem ctrlRow_eq_execWrite {s : State} {v : Mapper} {i : Nat} {rule : MapperState → MapperState}
    {slot : SlotId} {a : Addr} {x : Byte}
    (hr : ∀ m : MapperState, m.variant = v → rule m = m.writeRegister i x) :
    s.ctrlRow v i rule slot a x = execWrite slot a x s := by
  simp only [State.ctrlRow]
  split
  · rfl
  · rename_i m h
    split_ifs with hc
    · obtain ⟨hv, hd⟩ := hc
      rw [execWrite_register x h (by rw [hv]; exact hd), hr m hv]
    · rfl

/-- A WIN_READ row is the TRANSLATE it decodes, where its rule is the variant's read rule there. -/
theorem winRow_eq_execTranslate {s : State} {v : Mapper} {rule : MapperState → EffSlot → Loc}
    {slot : SlotId} {a : Addr} (hp : inCartridgeArea (pageOf a) = true)
    (hr : ∀ (m : MapperState) (k : EffSlot), m.variant = v → rule m k = m.readLoc k (pageOf a) (offsetOf a)) :
    s.winRow v rule slot a = execTranslate slot (pageOf a) (offsetOf a) s := by
  simp only [State.winRow]
  split
  · rfl
  · rename_i m h
    split_ifs with hv
    · simp [execTranslate, Block.translate, h, hp, hr m (s.blk.eff slot) hv]
    · rfl

end Sys2Proof.Machine
end

