-- ==== Sys2Proof/Laws/Exec.lean ====
section
/-! SUPPORT. What the transactions can do, and that the register rules keep a MapperState well formed. -/

namespace Sys2Proof.Machine

/-! ## Read rules -/

/-- A read rule gives a byte of the image, or a register of the SCC block (41 R137). -/
theorem readLoc_cases (m : MapperState) (k : EffSlot) (p : Page) (o : Off14) :
    (∃ n, m.readLoc k p o = .rom k n) ∨ ∃ x, m.readLoc k p o = .scc k x := by
  unfold MapperState.readLoc
  split
  · exact .inl ⟨_, rfl⟩
  · simp only [MapperState.sccRead]
    split_ifs
    · exact .inr ⟨_, rfl⟩
    · exact .inl ⟨_, rfl⟩
  · exact .inl ⟨_, rfl⟩
  · exact .inl ⟨_, rfl⟩

/-- What TRANSLATE can give (41 R137 to R139): Plain without a MapperState; Rom, Scc or Unmapped with one. -/
theorem translate_cases (b : Block) (k : EffSlot) (p : Page) (o : Off14) :
    (b.mapper? k = none ∧ b.translate k p o = .plain k p o) ∨
    ∃ m, b.mapper? k = some m ∧
      ((∃ n, b.translate k p o = .rom k n) ∨ (∃ x, b.translate k p o = .scc k x) ∨
        b.translate k p o = .unmapped k p o) := by
  cases h : b.mapper? k with
  | none => exact .inl ⟨rfl, by simp [Block.translate, h]⟩
  | some m =>
    refine .inr ⟨m, rfl, ?_⟩
    simp only [Block.translate, h]
    split_ifs
    · rcases readLoc_cases m k p o with hr | hr
      · exact .inl hr
      · exact .inr (.inl hr)
    · exact .inr (.inr rfl)

/-! ## The bus path -/

/-- The location of a bus read is the translation at the resolved slot (46 R205, R211). -/
theorem busLoc_eq (b : Block) (a : Addr) :
    b.busLoc a = b.translate (b.eff (b.assigned (pageOf a))) (pageOf a) (offsetOf a) := by
  simp only [Block.busLoc, Block.resolve]
  split
  · rfl
  · rename_i h; simp [Block.translate, h]

/-- A bus write is the write to the resolved slot (46 R206, R211). -/
theorem busWrite_eq (b : Block) (mode : CtrlDecode) (a : Addr) (v : Byte) :
    b.busWrite mode a v = b.onWrite mode (b.eff (b.assigned (pageOf a))) a v := by
  simp only [Block.busWrite, Block.resolve]
  split
  · rfl
  · rename_i h; simp [Block.onWrite, h]

/-- The byte a write forwards is the byte written, to Plain or to the SCC (41 R133). -/
theorem onWrite_forward {b : Block} {mode : CtrlDecode} {k : EffSlot} {a : Addr} {v x : Byte} {loc : Loc}
    (h : (b.onWrite mode k a v).2 = .forward loc x) :
    x = v ∧ (loc = .plain k (pageOf a) (offsetOf a) ∨ loc = .scc k (sccOffset a)) := by
  rcases onWrite_cases b mode k a v with ⟨_, e⟩ | ⟨m, _, ⟨i, _, e⟩ | ⟨_, ⟨_, _, e⟩ | ⟨_, e⟩⟩⟩ <;>
    rw [e] at h <;> simp at h
  · exact ⟨h.2.symm, .inl h.1.symm⟩
  · exact ⟨h.2.symm, .inr h.1.symm⟩

/-- A write leaves the slot tables (41 R134). -/
theorem onWrite_tables (b : Block) (mode : CtrlDecode) (k : EffSlot) (a : Addr) (v : Byte) :
    (b.onWrite mode k a v).1.assign = b.assign ∧ (b.onWrite mode k a v).1.exp = b.exp := by
  rcases onWrite_block b mode k a v with e | ⟨m, i, _, _, e⟩ <;> rw [e] <;> simp

/-! ## REGISTER -/

/-- What REGISTER can do: report a reason and change nothing, or create a MapperState (41 R131, R143). -/
theorem execRegister_cases (slot : SlotId) (v : Option Variant) (n : Nat) (s : State) :
    (∃ r, execRegister slot v n s = .next { s with result := .configError r }) ∨
    ∃ w, v.bind Variant.mapper? = some w ∧ 0 < n ∧ n % bankSizeOf w = 0 ∧
      execRegister slot v n s = .next { s.newImage (s.blk.eff slot) with
        blk := s.blk.setMapper (s.blk.eff slot) (some (MapperState.fresh w n))
        result := .ok } := by
  unfold execRegister
  cases h : v.bind Variant.mapper? with
  | none => exact .inl ⟨_, rfl⟩
  | some w =>
    simp only
    split_ifs with h1 h2
    · exact .inl ⟨_, rfl⟩
    · exact .inl ⟨_, rfl⟩
    · exact .inr ⟨w, rfl, by omega, by simpa using h2, rfl⟩

/-! ## Well-formedness -/

/-- The keys `eff` gives: a secondary index only on an expanded primary (10 R23). -/
theorem eff_secondary (b : Block) (x : SlotId) (h : (b.eff x).secondary.isSome = true) :
    b.isExpanded (b.eff x).primary = true := by
  unfold Block.eff at h ⊢
  split_ifs at h ⊢ with hc
  · exact (Bool.and_eq_true_iff.mp hc).2
  · simp at h

/-- The registers that the decode table names are those of the variant, and never Konami's register 0. -/
theorem decodeCtrl_bound {mode : CtrlDecode} {v : Mapper} {a : Addr} {i : Nat} (h : decodeCtrl mode v a = some i) :
    i < windowsOf v ∧ (v = .konami → i ≠ 0) := by
  cases v <;> cases mode
  · rw [decodeCtrl_konami_exact] at h; split_ifs at h <;> simp_all [windowsOf] <;> omega
  · rw [decodeCtrl_konami_range] at h; split_ifs at h <;> simp_all [windowsOf] <;> omega
  · rw [decodeCtrl_scc_exact] at h; split_ifs at h <;> simp_all [windowsOf] <;> omega
  · rw [decodeCtrl_scc_range] at h; split_ifs at h <;> simp_all [windowsOf] <;> omega
  · rw [decodeCtrl_ascii8_exact] at h; split_ifs at h <;> simp_all [windowsOf] <;> omega
  · rw [decodeCtrl_ascii8_range] at h; split_ifs at h <;> simp_all [windowsOf] <;> omega
  · rw [decodeCtrl_ascii16_exact] at h; split_ifs at h <;> simp_all [windowsOf]; omega
  · rw [decodeCtrl_ascii16_range] at h; split_ifs at h <;> simp_all [windowsOf]; omega

/-- The rule that a decoded register performs (41 R134, R136): the bank, but at KonamiSCC register 2 the flag
as well, and for 0x3F the flag only. -/
theorem writeRegister_eq {m : MapperState} {mode : CtrlDecode} {a : Addr} {i : Nat}
    (hd : decodeCtrl mode m.variant a = some i) (v : Byte) :
    m.writeRegister i v =
      if m.variant = .konamiSCC ∧ i = 2 then
        if v = 0x3F#8 then m.setScc true else (m.selectBank 2 v).setScc false
      else m.selectBank i v := by
  have hb := decodeCtrl_bound hd
  cases hv : m.variant <;> rw [hv] at hb <;> simp only [windowsOf] at hb
  · have hi : i = 1 ∨ i = 2 ∨ i = 3 := by have := hb.1; have := hb.2 trivial; omega
    rcases hi with rfl | rfl | rfl <;> simp [MapperState.writeRegister, hv, MapperState.konamiSel1,
      MapperState.konamiSel2, MapperState.konamiSel3]
  · have hi : i = 0 ∨ i = 1 ∨ i = 2 ∨ i = 3 := by have := hb.1; omega
    rcases hi with rfl | rfl | rfl | rfl <;> simp [MapperState.writeRegister, hv, MapperState.sccSel0,
      MapperState.sccSel1, MapperState.sccSel2, MapperState.sccSel3, MapperState.sccSccOn]
  · have hi : i = 0 ∨ i = 1 ∨ i = 2 ∨ i = 3 := by have := hb.1; omega
    rcases hi with rfl | rfl | rfl | rfl <;> simp [MapperState.writeRegister, hv, MapperState.ascii8Sel0,
      MapperState.ascii8Sel1, MapperState.ascii8Sel2, MapperState.ascii8Sel3]
  · have hi : i = 0 ∨ i = 1 := by have := hb.1; omega
    rcases hi with rfl | rfl <;> simp [MapperState.writeRegister, hv, MapperState.ascii16Sel0,
      MapperState.ascii16Sel1]

theorem selectBank_wf {m : MapperState} (h : m.wf) (i : Nat) (v : Byte) (hk : m.variant = .konami → i ≠ 0) :
    (m.selectBank i v).wf := by
  obtain ⟨h1, h2, h3, h4, h5, h6, h7, h8⟩ := h
  refine ⟨h1, h2, h3, h4, by simpa using h5, ?_, ?_, h8⟩
  · intro b hb
    have hpos : 0 < m.bankCount := by
      cases hl : m.bank with
      | nil => rw [hl] at h5; cases hv : m.variant <;> simp [hv, windowsOf] at h5
      | cons c l => exact lt_of_le_of_lt (Nat.zero_le _) (h6 c (by rw [hl]; simp))
    rcases List.mem_or_eq_of_mem_set hb with hb | rfl
    · exact h6 b hb
    · exact Nat.mod_lt _ hpos
  · intro hv
    rw [MapperState.bankAt, selectBank_bank, List.getD, List.getElem?_set_ne (hk hv), ← List.getD]
    exact h7 hv

theorem setScc_wf {m : MapperState} (h : m.wf) (f : Bool) (hv : m.variant = .konamiSCC) : (m.setScc f).wf := by
  obtain ⟨h1, h2, h3, h4, h5, h6, h7, h8⟩ := h
  exact ⟨h1, h2, h3, h4, h5, h6, h7, by simp [hv]⟩

/-- Every register rule keeps a MapperState well formed (10 R30). -/
theorem writeRegister_wf {m : MapperState} (h : m.wf) {mode : CtrlDecode} {a : Addr} {i : Nat} (v : Byte)
    (hd : decodeCtrl mode m.variant a = some i) : (m.writeRegister i v).wf := by
  have hk : m.variant = .konami → i ≠ 0 := (decodeCtrl_bound hd).2
  rcases writeRegister_cases m i v with e | e | ⟨hv, rfl, e | e⟩ <;> rw [e]
  · exact selectBank_wf h i v hk
  · exact h
  · exact setScc_wf (selectBank_wf h 2 v hk) false hv
  · exact setScc_wf h true hv

/-- A MapperState that passed REGISTER's checks is well formed (10 R36, 41 R131). -/
theorem fresh_wf {v : Mapper} {n : Nat} (h0 : 0 < n) (h : n % bankSizeOf v = 0) :
    (MapperState.fresh v n).wf := by
  have hb : 0 < n / bankSizeOf v := by
    apply Nat.div_pos
    · exact Nat.le_of_dvd h0 (Nat.dvd_of_mod_eq_zero h)
    · cases v <;> decide
  have hi : ∀ i, initBank v i (n / bankSizeOf v) < n / bankSizeOf v := fun i => Nat.mod_lt _ hb
  refine ⟨h0, rfl, h, rfl, ?_, ?_, ?_, ?_⟩
  · cases v <;> rfl
  · intro b hbm
    cases v <;> simp [MapperState.fresh, initBanks] at hbm hi ⊢
    all_goals
      (repeat' rcases hbm with rfl | hbm) <;> first | exact hb | exact hi _
  · intro hv; simp only [MapperState.fresh] at hv; subst hv; rfl
  · cases v <;> rfl

end Sys2Proof.Machine
end

