-- ==== Sys2Proof/Laws/PerInstr.lean ====
section
/-! SUPPORT. Per-instruction laws. RowWord: the record that the encoder writes carries the fixed bits of the
instruction's row of spec/opcode_table.json, in the row's format. -/

namespace Sys2Proof.Laws.RowWord

/-- The fixed bits of a row: its format, and the value of bits hi down to lo. -/
structure Row where
  format : Format
  hi     : Nat
  lo     : Nat
  value  : Nat

/-- The fixed bits of every row of the opcode table. A control write has those bits of its address that the
RANGE mask of 30 R89 keeps; under EXACT the bits below are 0 as well, and they are the row's `off`. -/
def row : Instr → Row
  | .resolve _ => ⟨.txn, 3, 0, 0⟩
  | .select _ _ => ⟨.txn, 3, 0, 1⟩
  | .isExp _ => ⟨.txn, 3, 0, 2⟩
  | .register _ _ _ => ⟨.txn, 3, 0, 3⟩
  | .unregister _ => ⟨.txn, 3, 0, 4⟩
  | .write _ _ _ => ⟨.txn, 3, 0, 5⟩
  | .translate _ _ _ => ⟨.txn, 3, 0, 6⟩
  | .busRead _ => ⟨.txn, 3, 0, 7⟩
  | .busWrite _ _ => ⟨.txn, 3, 0, 8⟩
  | .reset _ => ⟨.txn, 3, 0, 9⟩
  | .konamiSel1 _ _ _ => ⟨.ctrlWrite, 15, 13, 3⟩
  | .konamiSel2 _ _ _ => ⟨.ctrlWrite, 15, 13, 4⟩
  | .konamiSel3 _ _ _ => ⟨.ctrlWrite, 15, 13, 5⟩
  | .sccSel0 _ _ _ => ⟨.ctrlWrite, 15, 11, 10⟩
  | .sccSel1 _ _ _ => ⟨.ctrlWrite, 15, 11, 14⟩
  | .sccSel2 _ _ _ => ⟨.ctrlWrite, 15, 11, 18⟩
  | .sccSccOn _ _ => ⟨.ctrlWrite, 15, 11, 18⟩
  | .sccSel3 _ _ _ => ⟨.ctrlWrite, 15, 11, 22⟩
  | .ascii8Sel0 _ _ _ => ⟨.ctrlWrite, 15, 11, 12⟩
  | .ascii8Sel1 _ _ _ => ⟨.ctrlWrite, 15, 11, 13⟩
  | .ascii8Sel2 _ _ _ => ⟨.ctrlWrite, 15, 11, 14⟩
  | .ascii8Sel3 _ _ _ => ⟨.ctrlWrite, 15, 11, 15⟩
  | .ascii16Sel0 _ _ _ => ⟨.ctrlWrite, 15, 11, 12⟩
  | .ascii16Sel1 _ _ _ => ⟨.ctrlWrite, 15, 11, 14⟩
  | .sccRegionRead _ _ => ⟨.sccAccess, 15, 10, 38⟩
  | .sccRegionWrite _ _ _ => ⟨.sccAccess, 15, 10, 38⟩
  | .konamiWin0Read _ _ => ⟨.winRead, 15, 13, 2⟩
  | .konamiWin1Read _ _ => ⟨.winRead, 15, 13, 3⟩
  | .konamiWin2Read _ _ => ⟨.winRead, 15, 13, 4⟩
  | .konamiWin3Read _ _ => ⟨.winRead, 15, 13, 5⟩
  | .sccWin0Read _ _ => ⟨.winRead, 15, 13, 2⟩
  | .sccWin1Read _ _ => ⟨.winRead, 15, 13, 3⟩
  | .sccWin2Read _ _ => ⟨.winRead, 15, 13, 4⟩
  | .sccWin3Read _ _ => ⟨.winRead, 15, 13, 5⟩
  | .ascii8Win0Read _ _ => ⟨.winRead, 15, 13, 2⟩
  | .ascii8Win1Read _ _ => ⟨.winRead, 15, 13, 3⟩
  | .ascii8Win2Read _ _ => ⟨.winRead, 15, 13, 4⟩
  | .ascii8Win3Read _ _ => ⟨.winRead, 15, 13, 5⟩
  | .ascii16Win0Read _ _ => ⟨.winRead, 15, 14, 1⟩
  | .ascii16Win1Read _ _ => ⟨.winRead, 15, 14, 2⟩

/-- The encoder writes the row's word. -/
def Statement (i : Instr) : Prop :=
  (encode i).format = (row i).format ∧
  (encode i).bits / 2 ^ (row i).lo % 2 ^ ((row i).hi + 1 - (row i).lo) = (row i).value

theorem low_bits {n : Nat} (f : BitVec n) (rest : Nat) : putBits f rest % 2 ^ n = f.toNat := by
  rw [putBits, Nat.add_mul_mod_self_left, Nat.mod_eq_of_lt f.isLt]

theorem txn_row (kind : BitVec 4) (fields : Nat) :
    (txnRecord kind fields).format = .txn ∧ (txnRecord kind fields).bits / 2 ^ 0 % 2 ^ (3 + 1 - 0) = kind.toNat := by
  refine ⟨rfl, ?_⟩
  have h := low_bits kind fields
  simpa [txnRecord] using h

/-- The bits lo to 15 of a record whose first field is an address. -/
theorem address_row (a : Addr) (rest lo k : Nat) (hk : lo + k = 16) :
    putBits a rest / 2 ^ lo % 2 ^ k = a.toNat / 2 ^ lo := by
  have h : ∀ w : Nat, w / 2 ^ lo % 2 ^ k = w % 2 ^ 16 / 2 ^ lo := by
    intro w
    rw [← hk, Nat.pow_add, Nat.mod_mul_right_div_self]
  rw [h, low_bits]

theorem ctrl_row13 (m : Mapper) (r : BitVec 3) (off : BitVec 13) (slot : SlotId) (value : Byte) :
    (ctrlRecord m (regionAddr r off) slot value).format = .ctrlWrite ∧
    (ctrlRecord m (regionAddr r off) slot value).bits / 2 ^ 13 % 2 ^ (15 + 1 - 13) = r.toNat := by
  refine ⟨rfl, ?_⟩
  have := off.isLt
  rw [ctrlRecord, address_row _ _ 13 _ rfl, regionAddr_toNat]
  omega

theorem ctrl_row11 (m : Mapper) (b : BitVec 5) (off : BitVec 11) (slot : SlotId) (value : Byte) :
    (ctrlRecord m (blockAddr b off) slot value).format = .ctrlWrite ∧
    (ctrlRecord m (blockAddr b off) slot value).bits / 2 ^ 11 % 2 ^ (15 + 1 - 11) = b.toNat := by
  refine ⟨rfl, ?_⟩
  have := off.isLt
  rw [ctrlRecord, address_row _ _ 11 _ rfl, blockAddr_toNat]
  omega

theorem region_row (off : BitVec 10) (rest : Nat) :
    Format.sccAccess = .sccAccess ∧ putBits (sccRegionAddr off) rest / 2 ^ 10 % 2 ^ (15 + 1 - 10) = 38 := by
  refine ⟨rfl, ?_⟩
  have := off.isLt
  rw [address_row _ _ 10 _ rfl, sccRegionAddr_toNat]
  omega

theorem win_row13 (m : Mapper) (r : BitVec 3) (off : BitVec 13) (slot : SlotId) :
    (winRecord m (regionAddr r off) slot).format = .winRead ∧
    (winRecord m (regionAddr r off) slot).bits / 2 ^ 13 % 2 ^ (15 + 1 - 13) = r.toNat := by
  refine ⟨rfl, ?_⟩
  have := off.isLt
  rw [winRecord, address_row _ _ 13 _ rfl, regionAddr_toNat]
  omega

theorem win_row14 (m : Mapper) (p : Page) (off : Off14) (slot : SlotId) :
    (winRecord m (pageAddr p off) slot).format = .winRead ∧
    (winRecord m (pageAddr p off) slot).bits / 2 ^ 14 % 2 ^ (15 + 1 - 14) = p.toNat := by
  refine ⟨rfl, ?_⟩
  have := off.isLt
  rw [winRecord, address_row _ _ 14 _ rfl, pageAddr_toNat]
  omega

/-! ## One lemma per constructor -/

theorem resolve (addr : Addr) : Statement (.resolve addr) := txn_row _ _
theorem select (page : Page) (slot : SlotId) : Statement (.select page slot) := txn_row _ _
theorem isExp (primary : BitVec 2) : Statement (.isExp primary) := txn_row _ _
theorem register (slot : SlotId) (variant : Option Variant) (romSize : Nat) : Statement (.register slot variant romSize) := txn_row _ _
theorem unregister (slot : SlotId) : Statement (.unregister slot) := txn_row _ _
theorem write (slot : SlotId) (addr : Addr) (value : Byte) : Statement (.write slot addr value) := txn_row _ _
theorem translate (slot : SlotId) (page : Page) (offset : Off14) : Statement (.translate slot page offset) := txn_row _ _
theorem busRead (addr : Addr) : Statement (.busRead addr) := txn_row _ _
theorem busWrite (addr : Addr) (value : Byte) : Statement (.busWrite addr value) := txn_row _ _
theorem reset (exp : BitVec 4) : Statement (.reset exp) := txn_row _ _
theorem konamiSel1 (slot : SlotId) (off : BitVec 13) (value : Byte) : Statement (.konamiSel1 slot off value) := ctrl_row13 _ 3 off slot value
theorem konamiSel2 (slot : SlotId) (off : BitVec 13) (value : Byte) : Statement (.konamiSel2 slot off value) := ctrl_row13 _ 4 off slot value
theorem konamiSel3 (slot : SlotId) (off : BitVec 13) (value : Byte) : Statement (.konamiSel3 slot off value) := ctrl_row13 _ 5 off slot value
theorem sccSel0 (slot : SlotId) (off : BitVec 11) (value : Byte) : Statement (.sccSel0 slot off value) := ctrl_row11 _ 10 off slot value
theorem sccSel1 (slot : SlotId) (off : BitVec 11) (value : Byte) : Statement (.sccSel1 slot off value) := ctrl_row11 _ 14 off slot value
theorem sccSel2 (slot : SlotId) (off : BitVec 11) (value : Byte) : Statement (.sccSel2 slot off value) := ctrl_row11 _ 18 off slot value
theorem sccSccOn (slot : SlotId) (off : BitVec 11) : Statement (.sccSccOn slot off) := ctrl_row11 _ 18 off slot 0x3F
theorem sccSel3 (slot : SlotId) (off : BitVec 11) (value : Byte) : Statement (.sccSel3 slot off value) := ctrl_row11 _ 22 off slot value
theorem ascii8Sel0 (slot : SlotId) (off : BitVec 11) (value : Byte) : Statement (.ascii8Sel0 slot off value) := ctrl_row11 _ 12 off slot value
theorem ascii8Sel1 (slot : SlotId) (off : BitVec 11) (value : Byte) : Statement (.ascii8Sel1 slot off value) := ctrl_row11 _ 13 off slot value
theorem ascii8Sel2 (slot : SlotId) (off : BitVec 11) (value : Byte) : Statement (.ascii8Sel2 slot off value) := ctrl_row11 _ 14 off slot value
theorem ascii8Sel3 (slot : SlotId) (off : BitVec 11) (value : Byte) : Statement (.ascii8Sel3 slot off value) := ctrl_row11 _ 15 off slot value
theorem ascii16Sel0 (slot : SlotId) (off : BitVec 11) (value : Byte) : Statement (.ascii16Sel0 slot off value) := ctrl_row11 _ 12 off slot value
theorem ascii16Sel1 (slot : SlotId) (off : BitVec 11) (value : Byte) : Statement (.ascii16Sel1 slot off value) := ctrl_row11 _ 14 off slot value
theorem sccRegionRead (slot : SlotId) (off : BitVec 10) : Statement (.sccRegionRead slot off) := region_row off _
theorem sccRegionWrite (slot : SlotId) (off : BitVec 10) (value : Byte) : Statement (.sccRegionWrite slot off value) := region_row off _
theorem konamiWin0Read (slot : SlotId) (off : BitVec 13) : Statement (.konamiWin0Read slot off) := win_row13 _ 2 off slot
theorem konamiWin1Read (slot : SlotId) (off : BitVec 13) : Statement (.konamiWin1Read slot off) := win_row13 _ 3 off slot
theorem konamiWin2Read (slot : SlotId) (off : BitVec 13) : Statement (.konamiWin2Read slot off) := win_row13 _ 4 off slot
theorem konamiWin3Read (slot : SlotId) (off : BitVec 13) : Statement (.konamiWin3Read slot off) := win_row13 _ 5 off slot
theorem sccWin0Read (slot : SlotId) (off : BitVec 13) : Statement (.sccWin0Read slot off) := win_row13 _ 2 off slot
theorem sccWin1Read (slot : SlotId) (off : BitVec 13) : Statement (.sccWin1Read slot off) := win_row13 _ 3 off slot
theorem sccWin2Read (slot : SlotId) (off : BitVec 13) : Statement (.sccWin2Read slot off) := win_row13 _ 4 off slot
theorem sccWin3Read (slot : SlotId) (off : BitVec 13) : Statement (.sccWin3Read slot off) := win_row13 _ 5 off slot
theorem ascii8Win0Read (slot : SlotId) (off : BitVec 13) : Statement (.ascii8Win0Read slot off) := win_row13 _ 2 off slot
theorem ascii8Win1Read (slot : SlotId) (off : BitVec 13) : Statement (.ascii8Win1Read slot off) := win_row13 _ 3 off slot
theorem ascii8Win2Read (slot : SlotId) (off : BitVec 13) : Statement (.ascii8Win2Read slot off) := win_row13 _ 4 off slot
theorem ascii8Win3Read (slot : SlotId) (off : BitVec 13) : Statement (.ascii8Win3Read slot off) := win_row13 _ 5 off slot
theorem ascii16Win0Read (slot : SlotId) (off : BitVec 14) : Statement (.ascii16Win0Read slot off) := win_row14 _ 1 off slot
theorem ascii16Win1Read (slot : SlotId) (off : BitVec 14) : Statement (.ascii16Win1Read slot off) := win_row14 _ 2 off slot

end Sys2Proof.Laws.RowWord
end

