-- ==== Sys2Proof/Machine/Text.lean ====
section
/-! DEFINITION. The text syntax of a transaction (30_encoding.md R93): the printer and the reader. What R93
does not fix (spaces, digits of a number, letter case) is the model's choice, log entry 21. -/

namespace Sys2Proof.Machine

/-- A hexadecimal digit. -/
def hexDigit (n : Nat) : String :=
  ["0", "1", "2", "3", "4", "5", "6", "7", "8", "9", "A", "B", "C", "D", "E", "F"].getD (n % 16) "0"

/-- The last `digits` hexadecimal digits of a number. -/
def hexDigits : (digits : Nat) → (n : Nat) → String
  | 0, _ => ""
  | d + 1, n => hexDigits d (n / 16) ++ hexDigit n

/-- A number with its `0x` (30 R93). -/
def hexText (digits n : Nat) : String := "0x" ++ hexDigits digits n

/-- A number with its `0b`, four bits (30 R93). -/
def binText (b : BitVec 4) : String :=
  "0b" ++ String.join ([3, 2, 1, 0].map fun i => if b.getLsbD i then "1" else "0")

/-- A slot operand: `P`, or `P-S` when it is expanded (30 R93). -/
def slotText (s : SlotId) : String :=
  if s.expanded then toString s.primary.toNat ++ "-" ++ toString s.secondary.toNat else toString s.primary.toNat

/-- A variant operand (30 R93). -/
def variantText : Variant → String
  | .noMapper => "None"
  | .konami => "Konami"
  | .konamiSCC => "KonamiSCC"
  | .ascii8 => "ASCII8"
  | .ascii16 => "ASCII16"
  | .gameMaster2 => "GameMaster2"
  | .fmpac => "FMPAC"

/-- The text of a transaction (30 R93). A row of the decode tables is written as the WRITE or TRANSLATE it
decodes; a REGISTER with the code 7, which has no name, has no text. -/
def instrText (i : Instr) : Option String :=
  match i.transaction with
  | .reset exp => some ("RESET " ++ binText exp)
  | .resolve addr => some ("RESOLVE " ++ hexText 4 addr.toNat)
  | .select page slot => some ("SELECT " ++ toString page.toNat ++ ", " ++ slotText slot)
  | .isExp primary => some ("ISEXP " ++ toString primary.toNat)
  | .register slot variant romSize =>
    variant.map fun v => "REGISTER " ++ slotText slot ++ ", " ++ variantText v ++ ", " ++ toString romSize
  | .unregister slot => some ("UNREGISTER " ++ slotText slot)
  | .write slot addr value =>
    some ("WRITE " ++ slotText slot ++ ", " ++ hexText 4 addr.toNat ++ ", " ++ hexText 2 value.toNat)
  | .translate slot page offset =>
    some ("TRANSLATE " ++ slotText slot ++ ", " ++ toString page.toNat ++ ", " ++ hexText 4 offset.toNat)
  | .busRead addr => some ("BUSREAD " ++ hexText 4 addr.toNat)
  | .busWrite addr value => some ("BUSWRITE " ++ hexText 4 addr.toNat ++ ", " ++ hexText 2 value.toNat)
  | _ => none

/-! ## Reading -/

/-- The pieces of a text between the separators `c`. -/
def splitAtChar (c : Char) : List Char → List (List Char)
  | [] => [[]]
  | x :: xs =>
    if x = c then [] :: splitAtChar c xs
    else
      match splitAtChar c xs with
      | [] => [[x]]
      | w :: ws => (x :: w) :: ws

/-- A text without the spaces around it. -/
def trimSpaces (cs : List Char) : List Char :=
  ((cs.dropWhile (· = ' ')).reverse.dropWhile (· = ' ')).reverse

/-- The value of a digit. -/
def digitOf (c : Char) : Option Nat :=
  let n := c.toNat
  if 48 ≤ n ∧ n ≤ 57 then some (n - 48)
  else if 65 ≤ n ∧ n ≤ 70 then some (n - 55)
  else if 97 ≤ n ∧ n ≤ 102 then some (n - 87)
  else none

/-- The number that digits of a base continue from `acc`. -/
def digitsFrom (base : Nat) (acc : Nat) : List Char → Option Nat
  | [] => some acc
  | c :: cs =>
    match digitOf c with
    | none => none
    | some d => if d < base then digitsFrom base (acc * base + d) cs else none

/-- At least one digit of a base. -/
def digitsOf (base : Nat) (cs : List Char) : Option Nat := if cs = [] then none else digitsFrom base 0 cs

/-- "Numbers take `0x` for hexadecimal and `0b` for binary" (30 R93). -/
def numberOf : List Char → Option Nat
  | '0' :: 'x' :: cs => digitsOf 16 cs
  | '0' :: 'b' :: cs => digitsOf 2 cs
  | cs => digitsOf 10 cs

/-- A number that fits its field: a wider one "cannot be written down" (30 R92). -/
def fieldOf (n : Nat) (cs : List Char) : Option (BitVec n) :=
  (numberOf cs).bind fun v => if v < 2 ^ n then some (BitVec.ofNat n v) else none

/-- A slot operand: `P`, `P-S`, or a SLOTID8 byte `#0x8B` (30 R93). -/
def slotOf (cs : List Char) : Option SlotId :=
  match cs with
  | '#' :: byte => (fieldOf 8 byte).map SlotId.ofByte
  | _ =>
    match splitAtChar '-' cs with
    | [p] => (fieldOf 2 p).map fun p => ⟨false, 0, p⟩
    | [p, q] => (fieldOf 2 p).bind fun p => (fieldOf 2 q).map fun q => ⟨true, q, p⟩
    | _ => none

/-- A size operand: bytes, or a number of KB with the suffix `K` (30 R93). -/
def sizeOf (cs : List Char) : Option Nat :=
  match cs.reverse with
  | 'K' :: rest => (numberOf rest.reverse).map (· * 1024)
  | _ => numberOf cs

/-- A variant operand (30 R93). -/
def variantOf (cs : List Char) : Option Variant :=
  [Variant.noMapper, .konami, .konamiSCC, .ascii8, .ascii16, .gameMaster2, .fmpac].find?
    fun v => (variantText v).toList = cs

/-- The transaction of a mnemonic and its operands (30 R93). -/
def transactionOf (name : String) (operands : List (List Char)) : Option Instr :=
  match operands with
  | [a] =>
    if name = "RESET" then (fieldOf 4 a).map Instr.reset
    else if name = "RESOLVE" then (fieldOf 16 a).map Instr.resolve
    else if name = "ISEXP" then (fieldOf 2 a).map Instr.isExp
    else if name = "UNREGISTER" then (slotOf a).map Instr.unregister
    else if name = "BUSREAD" then (fieldOf 16 a).map Instr.busRead
    else none
  | [a, b] =>
    if name = "SELECT" then (fieldOf 2 a).bind fun page => (slotOf b).map (Instr.select page)
    else if name = "BUSWRITE" then (fieldOf 16 a).bind fun addr => (fieldOf 8 b).map (Instr.busWrite addr)
    else none
  | [a, b, c] =>
    if name = "REGISTER" then
      (slotOf a).bind fun slot => (variantOf b).bind fun v => (sizeOf c).map (Instr.register slot (some v))
    else if name = "WRITE" then
      (slotOf a).bind fun slot => (fieldOf 16 b).bind fun addr => (fieldOf 8 c).map (Instr.write slot addr)
    else if name = "TRANSLATE" then
      (slotOf a).bind fun slot => (fieldOf 2 b).bind fun page => (fieldOf 14 c).map (Instr.translate slot page)
    else none
  | _ => none

/-- The transaction of a line of text: a mnemonic, spaces, and operands with commas between them (30 R93). -/
def textInstr (line : String) : Option Instr :=
  let cs := trimSpaces line.toList
  transactionOf (String.ofList (cs.takeWhile (· ≠ ' ')))
    ((splitAtChar ',' (cs.dropWhile (· ≠ ' '))).map trimSpaces)

end Sys2Proof.Machine
end

