-- ==== Sys2Proof/Tests/Slice0.lean ====
section
/-! SUPPORT. Tests: words written out from 30_encoding.md, one step each with the results of
95_test_vectors.md, and for every statement with hypotheses a state and operands that meet them. A word is
written from its highest field to its lowest, with an underscore between two fields. -/

namespace Sys2Proof.Tests.Slice0

open Sys2Proof Sys2Proof.Machine

/-! ## Small states -/

/-- A MapperState of slot 1 with the banks REF_INIT (10 R36, written out as numbers). -/
def konami16 : MapperState := ⟨.konami, 131072, 8192, 16, [0, 1, 2, 3], none⟩
def konamiScc16 (flag : Bool) : MapperState := ⟨.konamiSCC, 131072, 8192, 16, [0, 1, 2, 3], some flag⟩
def ascii8x8 : MapperState := ⟨.ascii8, 65536, 8192, 8, [0, 0, 0, 0], none⟩
def ascii16x8 : MapperState := ⟨.ascii16, 131072, 16384, 8, [0, 0], none⟩

def slot1 : SlotId := ⟨false, 0, 1⟩
def key1 : EffSlot := ⟨1, none⟩

/-- After RESET 0b1000, with slot 1 on pages 1 and 2 and `m` registered there. -/
def withMapper (mode : CtrlDecode) (m : MapperState) : State :=
  { State.reset with
    blk := (((Block.afterReset 0b1000).select 1 slot1).select 2 slot1).setMapper key1 (some m)
    ctrlDecode := mode }

/-- The next state of an answer. -/
def stateOf : Answer → Option State
  | .next s => some s
  | .fault _ => none
  | .refused _ => none

/-- The fault of an answer. -/
def faultOf : Answer → Option Fault
  | .next _ => none
  | .fault f => some f
  | .refused _ => none

/-- The result of an answer. -/
def resultOf : Answer → Option Result
  | .next s => some s.result
  | .fault _ => none
  | .refused _ => none

/-- The bank registers and the SCC flag of slot 1 after an answer. -/
def registersOf : Answer → Option (List Nat × Option Bool)
  | .next s => (s.blk.mapper? key1).map fun m => (m.bank, m.scc)
  | .fault _ => none
  | .refused _ => none

/-- The bytes handed over after an answer. -/
def deliveriesOf : Answer → List Delivery
  | .next s => s.deliveries
  | .fault _ => []
  | .refused _ => []

/-! ## WellFormed: an ill-formed term for the check, and its neighbours -/

/-- 43 R173: no SCC.SEL2 has the value 0x3F. -/
theorem test_wellFormed_refuses :
    (Instr.sccSel2 ⟨false, 0, 2⟩ 0 0x3F).wellFormed = false ∧
    (Instr.sccSel2 ⟨false, 0, 2⟩ 0 0x3E).wellFormed = true ∧ (Instr.sccSccOn ⟨false, 0, 2⟩ 0).wellFormed = true := by
  decide

/-! ## Decoding -/

/-- 30 R90: kind in bits 3..0, then the fields in their order. P1 steps 6 and 3, L2.1 row 15. -/
theorem test_decode_resolver :
    decode ⟨.txn, 0b1000000100100011_0000⟩ = .ok (.resolve 0x8123) ∧
    decode ⟨.txn, 0b10001011_10_0001⟩ = .ok (.select 2 ⟨true, 2, 3⟩) ∧
    decode ⟨.txn, 0b11_0010⟩ = .ok (.isExp 3) := by
  decide

/-- P2 step 2: REGISTER 1, ASCII16, 131072; and the code 7, which names no variant (30 R87). -/
theorem test_decode_register :
    decode ⟨.txn, 0b100000000000000000_100_00000001_0011⟩ = .ok (.register ⟨false, 0, 1⟩ (some .ascii16) 131072) ∧
    decode ⟨.txn, 0b101_111_00000001_0011⟩ = .ok (.register ⟨false, 0, 1⟩ none 5) ∧
    decode ⟨.txn, 0b00000011_0100⟩ = .ok (.unregister ⟨false, 0, 3⟩) := by
  decide

/-- P5 steps 5 and 7. -/
theorem test_decode_write_translate :
    decode ⟨.txn, 0b00000011_0110000000000000_00000001_0101⟩ = .ok (.write ⟨false, 0, 1⟩ 0x6000 3) ∧
    decode ⟨.txn, 0b00000100000000_01_00000001_0110⟩ = .ok (.translate ⟨false, 0, 1⟩ 1 0x0100) := by
  decide

/-- P1 steps 9, 8 and 1. -/
theorem test_decode_bus_reset :
    decode ⟨.txn, 0b0100000000000000_0111⟩ = .ok (.busRead 0x4000) ∧
    decode ⟨.txn, 0b01011010_1100000000010000_1000⟩ = .ok (.busWrite 0xC010 0x5A) ∧
    decode ⟨.txn, 0b1000_1001⟩ = .ok (.reset 0b1000) := by
  decide

/-- 30 R89 under RANGE: the first and the last address of each Konami block. -/
theorem test_decode_konami_control :
    decode ⟨.ctrlWrite, 0b00000101_10001011_001_0110000000000000⟩ = .ok (.konamiSel1 ⟨true, 2, 3⟩ 0 5) ∧
    decode ⟨.ctrlWrite, 0b00000101_10001011_001_0111111111111111⟩ = .ok (.konamiSel1 ⟨true, 2, 3⟩ 0x1FFF 5) ∧
    decode ⟨.ctrlWrite, 0b00010011_10001011_001_1000000000000000⟩ = .ok (.konamiSel2 ⟨true, 2, 3⟩ 0 0x13) ∧
    decode ⟨.ctrlWrite, 0b00001111_10001011_001_1011111111111111⟩ = .ok (.konamiSel3 ⟨true, 2, 3⟩ 0x1FFF 0x0F) ∧
    decode ⟨.ctrlWrite, 0b00000101_10001011_001_0101111111111111⟩ = .error .noRow := by
  decide

/-- 30 R89, 43 R173, R174: 0x3F at register 2 is SCC.SCCON, 0x7F is SCC.SEL2. -/
theorem test_decode_scc_control :
    decode ⟨.ctrlWrite, 0b00000001_10001011_010_0101000000000000⟩ = .ok (.sccSel0 ⟨true, 2, 3⟩ 0 1) ∧
    decode ⟨.ctrlWrite, 0b00100001_10001011_010_0111011111111111⟩ = .ok (.sccSel1 ⟨true, 2, 3⟩ 0x7FF 0x21) ∧
    decode ⟨.ctrlWrite, 0b01111111_10001011_010_1001000000000000⟩ = .ok (.sccSel2 ⟨true, 2, 3⟩ 0 0x7F) ∧
    decode ⟨.ctrlWrite, 0b00111111_10001011_010_1001011111111111⟩ = .ok (.sccSccOn ⟨true, 2, 3⟩ 0x7FF) ∧
    decode ⟨.ctrlWrite, 0b00111111_10001011_010_1011000000000000⟩ = .ok (.sccSel3 ⟨true, 2, 3⟩ 0 0x3F) ∧
    decode ⟨.ctrlWrite, 0b00000001_10001011_010_1001100000000000⟩ = .error .noRow := by
  decide

/-- 30 R89: the four ASCII8 blocks of 2 KB. -/
theorem test_decode_ascii8_control :
    decode ⟨.ctrlWrite, 0b00000011_10001011_011_0110000000000000⟩ = .ok (.ascii8Sel0 ⟨true, 2, 3⟩ 0 3) ∧
    decode ⟨.ctrlWrite, 0b00000011_10001011_011_0110111111111111⟩ = .ok (.ascii8Sel1 ⟨true, 2, 3⟩ 0x7FF 3) ∧
    decode ⟨.ctrlWrite, 0b00000101_10001011_011_0111000000000000⟩ = .ok (.ascii8Sel2 ⟨true, 2, 3⟩ 0 5) ∧
    decode ⟨.ctrlWrite, 0b00000111_10001011_011_0111111111111111⟩ = .ok (.ascii8Sel3 ⟨true, 2, 3⟩ 0x7FF 7) := by
  decide

/-- 30 R89: the two ASCII16 blocks; 0x6800 is in neither (45 R199). -/
theorem test_decode_ascii16_control :
    decode ⟨.ctrlWrite, 0b00001001_10001011_100_0110011111111111⟩ = .ok (.ascii16Sel0 ⟨true, 2, 3⟩ 0x7FF 9) ∧
    decode ⟨.ctrlWrite, 0b11111111_10001011_100_0111000000000000⟩ = .ok (.ascii16Sel1 ⟨true, 2, 3⟩ 0 0xFF) ∧
    decode ⟨.ctrlWrite, 0b00000001_10001011_100_0110100000000000⟩ = .error .noRow := by
  decide

/-- 20 R63: the first and the last address of the SCC region; 0x9C00 is outside. -/
theorem test_decode_scc_region :
    decode ⟨.sccAccess, 0b10001011_0_1001100000000000⟩ = .ok (.sccRegionRead ⟨true, 2, 3⟩ 0) ∧
    decode ⟨.sccAccess, 0b10101010_10001011_1_1001101111111111⟩ = .ok (.sccRegionWrite ⟨true, 2, 3⟩ 0x3FF 0xAA) ∧
    decode ⟨.sccAccess, 0b10001011_0_1001110000000000⟩ = .error .noRow := by
  decide

/-- 30 R84: the first or the last address of each 8 KB window; 0xC000 is in none. -/
theorem test_decode_konami_windows :
    decode ⟨.winRead, 0b10001011_001_0100000000000000⟩ = .ok (.konamiWin0Read ⟨true, 2, 3⟩ 0) ∧
    decode ⟨.winRead, 0b10001011_001_0111111111111111⟩ = .ok (.konamiWin1Read ⟨true, 2, 3⟩ 0x1FFF) ∧
    decode ⟨.winRead, 0b10001011_001_1000000000000000⟩ = .ok (.konamiWin2Read ⟨true, 2, 3⟩ 0) ∧
    decode ⟨.winRead, 0b10001011_001_1011111111111111⟩ = .ok (.konamiWin3Read ⟨true, 2, 3⟩ 0x1FFF) ∧
    decode ⟨.winRead, 0b10001011_001_1100000000000000⟩ = .error .noRow := by
  decide

/-- 30 R84: the first or the last address of each 8 KB window; 0xC000 is in none. -/
theorem test_decode_scc_windows :
    decode ⟨.winRead, 0b10001011_010_0100000000000000⟩ = .ok (.sccWin0Read ⟨true, 2, 3⟩ 0) ∧
    decode ⟨.winRead, 0b10001011_010_0111111111111111⟩ = .ok (.sccWin1Read ⟨true, 2, 3⟩ 0x1FFF) ∧
    decode ⟨.winRead, 0b10001011_010_1000000000000000⟩ = .ok (.sccWin2Read ⟨true, 2, 3⟩ 0) ∧
    decode ⟨.winRead, 0b10001011_010_1011111111111111⟩ = .ok (.sccWin3Read ⟨true, 2, 3⟩ 0x1FFF) ∧
    decode ⟨.winRead, 0b10001011_010_1100000000000000⟩ = .error .noRow := by
  decide

/-- 30 R84: the first or the last address of each 8 KB window; 0xC000 is in none. -/
theorem test_decode_ascii8_windows :
    decode ⟨.winRead, 0b10001011_011_0100000000000000⟩ = .ok (.ascii8Win0Read ⟨true, 2, 3⟩ 0) ∧
    decode ⟨.winRead, 0b10001011_011_0111111111111111⟩ = .ok (.ascii8Win1Read ⟨true, 2, 3⟩ 0x1FFF) ∧
    decode ⟨.winRead, 0b10001011_011_1000000000000000⟩ = .ok (.ascii8Win2Read ⟨true, 2, 3⟩ 0) ∧
    decode ⟨.winRead, 0b10001011_011_1011111111111111⟩ = .ok (.ascii8Win3Read ⟨true, 2, 3⟩ 0x1FFF) ∧
    decode ⟨.winRead, 0b10001011_011_1100000000000000⟩ = .error .noRow := by
  decide

/-- 30 R85: the first and the last address of each 16 KB window. -/
theorem test_decode_ascii16_windows :
    decode ⟨.winRead, 0b10001011_100_0111111111111111⟩ = .ok (.ascii16Win0Read ⟨true, 2, 3⟩ 0x3FFF) ∧
    decode ⟨.winRead, 0b10001011_100_1000000000000000⟩ = .ok (.ascii16Win1Read ⟨true, 2, 3⟩ 0) ∧
    decode ⟨.winRead, 0b10001011_100_0011111111111111⟩ = .error .noRow := by
  decide

/-- 30 R92: the kinds 10 to 15 are refused by name, and a field wider than it is refused. -/
theorem test_decode_refusals :
    decode ⟨.txn, 0b1010⟩ = .error (.unusedKind 10) ∧ decode ⟨.txn, 0b11_1111⟩ = .error (.unusedKind 15) ∧
    decode ⟨.txn, 0b1_11_0010⟩ = .error .tooWide := by
  decide

/-- The encoder writes the words of P1 step 3 and P3 step 7. -/
theorem test_encode_words :
    encode (.select 2 ⟨true, 2, 3⟩) = ⟨.txn, 0b10001011_10_0001⟩ ∧
    encode (.busWrite 0x9810 0xAA) = ⟨.txn, 0b10101010_1001100000010000_1000⟩ := by
  decide

/-- SLOTID8 (30 R82, R83; L2.1 rows 7 to 12): reserved bits and the SS of a non-expanded byte are ignored. -/
theorem test_slot_bytes :
    SlotId.ofByte 0x8B = ⟨true, 2, 3⟩ ∧ SlotId.ofByte 0xFF = ⟨true, 3, 3⟩ ∧ SlotId.ofByte 0x71 = ⟨false, 0, 1⟩ ∧
    (Block.afterReset 0b1000).eff (SlotId.ofByte 0x05) = ⟨1, none⟩ ∧
    effSlotByte ⟨3, some 2⟩ = 0x8B ∧ effSlotByte ⟨3, some 3⟩ = 0x8F ∧ effSlotByte ⟨1, none⟩ = 0x01 := by
  decide

/-- The opcode table's own words: a transaction, a control write, an SCC access and a window read. -/
theorem test_table_words :
    decodeTableWord 8 0x9 = some (.reset 0) ∧ decodeTableWord 8 0xA = none ∧
    decodeTableWord 16 0xB000 = some (.sccSel3 ⟨false, 0, 0⟩ 0 0) ∧
    decodeTableWord 16 0x9801 = some (.sccRegionRead ⟨false, 0, 0⟩ 1) ∧
    decodeTableWord 16 0x4000 = some (.konamiWin0Read ⟨false, 0, 0⟩ 0) := by
  decide

/-- The next step runs the word that `withFetchWord` places: RESET after RESET. -/
theorem test_withFetchWord : stateOf (step (State.reset.withFetchWord 8 0x9)) = some State.reset := by
  decide

/-- With no transaction pending the machine stops (log entry 1). -/
theorem test_step_without_transaction : faultOf (step State.reset) = some .noTransaction := by
  decide

/-! ## The text of a transaction (30 R93; the lines are R93's own and L2.1 row 7) -/

theorem test_text_print :
    instrText (.reset 0b1000) = some "RESET 0b1000" ∧ instrText (.resolve 0x9ABC) = some "RESOLVE 0x9ABC" ∧
    instrText (.select 1 ⟨true, 2, 3⟩) = some "SELECT 1, 3-2" ∧ instrText (.isExp 3) = some "ISEXP 3" ∧
    instrText (.register ⟨false, 0, 1⟩ (some .ascii16) 131072) = some "REGISTER 1, ASCII16, 131072" := by
  decide

theorem test_text_read :
    textInstr "RESET      0b1000" = some (.reset 0b1000) ∧ textInstr "SELECT 3, #0x8B" = some (.select 3 ⟨true, 2, 3⟩) ∧
    textInstr "REGISTER 1, ASCII8, 64K" = some (.register ⟨false, 0, 1⟩ (some .ascii8) 65536) ∧
    textInstr "WRITE 2, 0x9000, 0x3F" = some (.write ⟨false, 0, 2⟩ 0x9000 0x3F) ∧
    textInstr "TRANSLATE 1-2, 1, 0x4000" = none := by
  decide

/-! ## Transactions -/

/-- L2.1 rows 6 and 7. -/
theorem test_resolve :
    resultOf (exec (.resolve 0xC000) (withMapper .exact konami16)) = some (.resolved ⟨0, none⟩ 3 0) ∧
    resultOf (exec (.resolve 0xC123)
        { State.reset with blk := (Block.afterReset 0b1000).select 3 (SlotId.ofByte 0x8B) }) =
      some (.resolved ⟨3, some 2⟩ 3 0x0123) := by
  decide

/-- P1 step 5: the SlotId 1-2 is stored as given on a primary that is not expanded. -/
theorem test_select :
    stateOf (exec (.select 2 (SlotId.ofByte 0x89)) { State.reset with blk := Block.afterReset 0b1000 }) =
      some { State.reset with blk := (Block.afterReset 0b1000).select 2 ⟨true, 2, 1⟩ } := by
  decide

/-- L2.1 row 15. -/
theorem test_isExp :
    resultOf (exec (.isExp 3) (withMapper .exact konami16)) = some (.expanded true) ∧
    resultOf (exec (.isExp 0) (withMapper .exact konami16)) = some (.expanded false) := by
  decide

/-- L2.2 rows 1, 5 and 17: the bank count, and the key of 1-2 where primary 1 is not expanded. -/
theorem test_register_ok :
    resultOf (exec (.register slot1 (some .ascii16) 131072) State.reset) = some .ok ∧
    (MapperState.fresh .ascii16 49152).bankCount = 3 ∧ (MapperState.fresh .konamiSCC 131072).scc = some false ∧
    State.reset.blk.eff ⟨true, 2, 1⟩ = key1 := by
  decide

/-- L2.2 rows 8, 9 and 12, and 30 R92: the code 7. -/
theorem test_register_errors :
    stateOf (exec (.register slot1 (some .ascii8) 100000) State.reset) =
      some { State.reset with result := .configError .notMultiple } ∧
    resultOf (exec (.register slot1 (some .ascii16) 0) State.reset) = some (.configError .zeroSize) ∧
    resultOf (exec (.register slot1 (some .gameMaster2) 0) State.reset) = some (.configError .unsupportedVariant) ∧
    resultOf (exec (.register slot1 none 65536) State.reset) = some (.configError .unsupportedVariant) := by
  decide

/-- R20: the image count stands outside S, and a second REGISTER of the same slot counts on. -/
theorem test_register_image :
    (State.reset.newImage key1).blk = State.reset.blk ∧ (State.reset.newImage key1).imageAt key1 = 1 ∧
    ((State.reset.newImage key1).newImage key1).imageAt key1 = 2 ∧
    ((State.reset.newImage key1).newImage key1).imageAt ⟨2, none⟩ = 0 := by
  decide

/-- L2.2 row 15: after UNREGISTER the slot is Plain. -/
theorem test_unregister :
    registersOf (exec (.unregister slot1) (withMapper .exact ascii8x8)) = none ∧
    resultOf (exec (.translate slot1 1 0x0100) { State.reset with blk := Block.afterReset 0b1000 }) =
      some (.located (.plain key1 1 0x0100)) := by
  decide

/-- L2.3 rows 10, 12 and 14: window 0 is fixed, 0x6001 in both modes, page 3. -/
theorem test_write_ordinary :
    resultOf (exec (.write slot1 0x4000 1) (withMapper .range konami16)) =
      some (.written (.discarded (.rom key1 0))) ∧
    resultOf (exec (.write slot1 0x6001 2) (withMapper .exact { konami16 with bank := [0, 5, 2, 3] })) =
      some (.written (.discarded (.rom key1 0xA001))) ∧
    registersOf (exec (.write slot1 0x6001 2) (withMapper .range konami16)) = some ([0, 2, 2, 3], none) ∧
    resultOf (exec (.write slot1 0xC000 0) (withMapper .exact konami16)) =
      some (.written (.discarded (.unmapped key1 3 0))) := by
  decide

/-- L2.4 rows 11 and 13: the redirect is exactly 1 KB. -/
theorem test_write_redirect :
    resultOf (exec (.write slot1 0x9800 0x55) (withMapper .exact (konamiScc16 true))) =
      some (.written (.forward (.scc key1 0) 0x55)) ∧
    resultOf (exec (.write slot1 0x9C00 0x01) (withMapper .exact (konamiScc16 true))) =
      some (.written (.discarded (.rom key1 0x5C00))) := by
  decide

/-- L2.4 rows 8 to 10: the ends of the redirect. -/
theorem test_translate_redirect :
    resultOf (exec (.translate slot1 2 0x1BFF) (withMapper .exact (konamiScc16 true))) =
      some (.located (.scc key1 0x3FF)) ∧
    resultOf (exec (.translate slot1 2 0x1C00) (withMapper .exact (konamiScc16 true))) =
      some (.located (.rom key1 0x5C00)) ∧
    resultOf (exec (.translate slot1 2 0x17FF) (withMapper .exact (konamiScc16 true))) =
      some (.located (.rom key1 0x57FF)) := by
  decide

/-- L1-7 as corrected (90 C4), and L2.5 row 12. -/
theorem test_translate_ascii8 :
    resultOf (exec (.translate slot1 1 0x1100) (withMapper .exact { ascii8x8 with bank := [3, 0, 5, 7] })) =
      some (.located (.rom key1 0x7100)) ∧
    resultOf (exec (.translate slot1 2 0x0100) (withMapper .exact { ascii8x8 with bank := [3, 0, 5, 7] })) =
      some (.located (.rom key1 0xA100)) ∧
    resultOf (exec (.translate slot1 2 0x3FFF) (withMapper .exact { ascii8x8 with bank := [3, 0, 5, 7] })) =
      some (.located (.rom key1 0xFFFF)) := by
  decide

/-- L2.7 rows 3 and 5: a byte of the image at 0x4005; page 0 of a mapper slot is Unmapped, and its byte a
draw. -/
theorem test_busRead :
    exec (.busRead 0x4005) (withMapper .exact { ascii16x8 with bank := [1, 0] }) =
      .next { withMapper .exact { ascii16x8 with bank := [1, 0] } with
        result := .read (.rom key1 0x4005) (Config.romImage key1 0 0x4005) } ∧
    (∀ s : State, s.blk = (withMapper .exact ascii16x8).blk.select 0 slot1 →
      exec (.busRead 0x0000) s = .next { s with
        draws := s.draws + 1, result := .read (.unmapped key1 0 0) (Config.draw s.draws) }) := by
  refine ⟨rfl, ?_⟩
  intro s hs
  have hb : s.blk.busLoc 0x0000 = .unmapped key1 0 0 := by rw [hs]; decide
  simp only [exec, execBusRead, hb]
  rfl

/-- P1 step 8, with the slot 3-0 as step 4's text names it (log entry 22: its byte 0x80 is 0-0 by R82): the
BACKING byte of an expanded slot. L2.7 row 3: a control write, nothing delivered. -/
theorem test_busWrite :
    deliveriesOf (exec (.busWrite 0xC010 0x5A)
        { State.reset with blk := (Block.afterReset 0b1000).select 3 ⟨true, 0, 3⟩ }) =
      [⟨.plain ⟨3, some 0⟩ 3 0x0010, 0x5A⟩] ∧
    registersOf (exec (.busWrite 0x6000 9) (withMapper .exact ascii16x8)) = some ([1, 0], none) ∧
    deliveriesOf (exec (.busWrite 0x6000 9) (withMapper .exact ascii16x8)) = [] := by
  decide

/-- L2.7 rows 6 and 7: RESET empties the MapperTable and loads the flags. -/
theorem test_reset :
    stateOf (exec (.reset 0b1000) (withMapper .exact ascii8x8)) =
      some { State.reset with blk := Block.afterReset 0b1000 } ∧
    (Block.afterReset 0b1000).mapper? key1 = none ∧ (Block.afterReset 0b1000).isExpanded 3 = true := by
  decide

/-! ## Rows of the decode tables -/

/-- L2.3 rows 3, 6 and 8. -/
theorem test_konami_selects :
    registersOf (exec (.konamiSel1 slot1 0 5) (withMapper .exact konami16)) = some ([0, 5, 2, 3], none) ∧
    registersOf (exec (.konamiSel2 slot1 0 0x13) (withMapper .exact konami16)) = some ([0, 1, 3, 3], none) ∧
    registersOf (exec (.konamiSel3 slot1 0 0x0F) (withMapper .exact konami16)) = some ([0, 1, 2, 15], none) ∧
    resultOf (exec (.konamiSel1 slot1 0x1FFF 5) (withMapper .range konami16)) =
      some (.written (.consumed 1)) := by
  decide

/-- L2.4 rows 3, 5, 6, 15 and 17: 0x3F sets the flag and keeps bank 2; 0x7F clears it and selects bank 15. -/
theorem test_scc_selects :
    registersOf (exec (.sccSel0 slot1 0 1) (withMapper .exact (konamiScc16 false))) = some ([1, 1, 2, 3], some false) ∧
    registersOf (exec (.sccSel1 slot1 0 0x21) (withMapper .exact (konamiScc16 true))) = some ([0, 1, 2, 3], some true) ∧
    registersOf (exec (.sccSccOn slot1 0) (withMapper .exact (konamiScc16 false))) = some ([0, 1, 2, 3], some true) ∧
    registersOf (exec (.sccSel2 slot1 0 0x7F) (withMapper .exact (konamiScc16 true))) = some ([0, 1, 15, 3], some false) ∧
    registersOf (exec (.sccSel3 slot1 0 0x3F) (withMapper .exact (konamiScc16 true))) = some ([0, 1, 2, 15], some true) := by
  decide

/-- L2.5 rows 2, 7, 9 and 11. -/
theorem test_ascii8_selects :
    registersOf (exec (.ascii8Sel0 slot1 0 3) (withMapper .exact ascii8x8)) = some ([3, 0, 0, 0], none) ∧
    registersOf (exec (.ascii8Sel1 slot1 0 0x0A) (withMapper .exact ascii8x8)) = some ([0, 2, 0, 0], none) ∧
    registersOf (exec (.ascii8Sel2 slot1 0 5) (withMapper .exact ascii8x8)) = some ([0, 0, 5, 0], none) ∧
    registersOf (exec (.ascii8Sel3 slot1 0 7) (withMapper .exact ascii8x8)) = some ([0, 0, 0, 7], none) := by
  decide

/-- L2.6 rows 1, 4 and 8: 5 mod 3 is 2, so the reduction is no mask. -/
theorem test_ascii16_selects :
    registersOf (exec (.ascii16Sel0 slot1 0 9) (withMapper .exact ascii16x8)) = some ([1, 0], none) ∧
    registersOf (exec (.ascii16Sel1 slot1 0 0xFF) (withMapper .exact ascii16x8)) = some ([0, 7], none) ∧
    registersOf (exec (.ascii16Sel0 slot1 0 5) (withMapper .exact { ascii16x8 with romSize := 49152, bankCount := 3 })) =
      some ([2, 0], none) := by
  decide

/-- L2.3 rows 1, 5, 7 and 9: Konami windows, with the banks of rows 3, 6 and 8. -/
theorem test_konami_windows :
    resultOf (exec (.konamiWin0Read slot1 0x0123) (withMapper .exact { konami16 with bank := [9, 5, 3, 15] })) =
      some (.located (.rom key1 0x0123)) ∧
    resultOf (exec (.konamiWin1Read slot1 0x1FFF) (withMapper .exact { konami16 with bank := [0, 5, 3, 15] })) =
      some (.located (.rom key1 0xBFFF)) ∧
    resultOf (exec (.konamiWin2Read slot1 0) (withMapper .exact { konami16 with bank := [0, 5, 3, 15] })) =
      some (.located (.rom key1 0x6000)) ∧
    resultOf (exec (.konamiWin3Read slot1 1) (withMapper .exact { konami16 with bank := [0, 5, 3, 15] })) =
      some (.located (.rom key1 0x1E001)) := by
  decide

/-- L2.4 rows 4, 9, 7 and 18: KonamiSCC windows. -/
theorem test_scc_windows :
    resultOf (exec (.sccWin0Read slot1 0) (withMapper .exact { konamiScc16 true with bank := [1, 1, 2, 15] })) =
      some (.located (.rom key1 0x2000)) ∧
    resultOf (exec (.sccWin1Read slot1 0x1FFF) (withMapper .exact { konamiScc16 true with bank := [1, 1, 2, 15] })) =
      some (.located (.rom key1 0x3FFF)) ∧
    resultOf (exec (.sccWin2Read slot1 0x1C00) (withMapper .exact { konamiScc16 true with bank := [1, 1, 2, 15] })) =
      some (.located (.rom key1 0x5C00)) ∧
    resultOf (exec (.sccWin2Read slot1 0x1800) (withMapper .exact (konamiScc16 true))) =
      some (.located (.scc key1 0)) ∧
    resultOf (exec (.sccWin3Read slot1 0) (withMapper .exact { konamiScc16 true with bank := [1, 1, 2, 15] })) =
      some (.located (.rom key1 0x1E000)) := by
  decide

/-- L2.5 rows 3, 10, 8 and 12: ASCII8 windows. -/
theorem test_ascii8_windows :
    resultOf (exec (.ascii8Win0Read slot1 0x0100) (withMapper .exact { ascii8x8 with bank := [3, 2, 5, 7] })) =
      some (.located (.rom key1 0x6100)) ∧
    resultOf (exec (.ascii8Win1Read slot1 0) (withMapper .exact { ascii8x8 with bank := [3, 2, 5, 7] })) =
      some (.located (.rom key1 0x4000)) ∧
    resultOf (exec (.ascii8Win2Read slot1 0x0100) (withMapper .exact { ascii8x8 with bank := [3, 2, 5, 7] })) =
      some (.located (.rom key1 0xA100)) ∧
    resultOf (exec (.ascii8Win3Read slot1 0x1FFF) (withMapper .exact { ascii8x8 with bank := [3, 2, 5, 7] })) =
      some (.located (.rom key1 0xFFFF)) := by
  decide

/-- L2.6 rows 3 and 5: ASCII16 windows. -/
theorem test_ascii16_windows :
    resultOf (exec (.ascii16Win0Read slot1 0x3FFF) (withMapper .exact { ascii16x8 with bank := [1, 7] })) =
      some (.located (.rom key1 0x7FFF)) ∧
    resultOf (exec (.ascii16Win1Read slot1 0x0010) (withMapper .exact { ascii16x8 with bank := [1, 7] })) =
      some (.located (.rom key1 0x1C010)) := by
  decide

/-- L2.4 rows 1, 8, 12 and 2: the SCC region with the flag clear and set. -/
theorem test_scc_region :
    resultOf (exec (.sccRegionRead slot1 0) (withMapper .exact (konamiScc16 false))) =
      some (.located (.rom key1 0x5800)) ∧
    resultOf (exec (.sccRegionRead slot1 0x3FF) (withMapper .exact (konamiScc16 true))) =
      some (.located (.scc key1 0x3FF)) ∧
    deliveriesOf (exec (.sccRegionWrite slot1 0x3FF 0x01) (withMapper .exact (konamiScc16 true))) =
      [⟨.scc key1 0x3FF, 0x01⟩] ∧
    resultOf (exec (.sccRegionWrite slot1 0 0x55) (withMapper .exact (konamiScc16 false))) =
      some (.written (.discarded (.rom key1 0x5800))) := by
  decide

/-- Log entry 11: a row on a slot of another variant is the WRITE it decodes. L2.4 row 19. -/
theorem test_row_of_another_variant :
    resultOf (exec (.konamiSel1 slot1 0 1) (withMapper .exact (konamiScc16 false))) =
      some (.written (.discarded (.rom key1 0x2000))) := by
  decide

/-! ## Witnesses: for every statement with hypotheses, a state and operands that meet all of them -/

theorem withMapper_holds (mode : CtrlDecode) (m : MapperState) :
    (withMapper mode m).holds slot1 m.variant m := by
  refine ⟨?_, rfl⟩
  have he : (withMapper mode m).blk.eff slot1 = key1 := rfl
  rw [he]
  simp [withMapper]

theorem withMapper_inv (mode : CtrlDecode) {m : MapperState} (h : m.wf) : (withMapper mode m).blk.Inv := by
  intro k m' hk
  simp only [withMapper, mapper?_setMapper] at hk
  split_ifs at hk with he
  · cases hk; subst he; exact ⟨h, fun hs => absurd hs (by decide)⟩
  · simp at hk

theorem konami16_wf : konami16.wf := by decide
theorem konamiScc16_wf : (konamiScc16 true).wf ∧ (konamiScc16 false).wf := by decide
theorem ascii8x8_wf : ascii8x8.wf := by decide
theorem ascii16x8_wf : ascii16x8.wf := by decide

/-- DecodeReadsBackEveryEncoding: the values next to 0x3F. -/
theorem witness_encoding :
    (Instr.sccSel2 slot1 0x7FF 0x3E).wellFormed = true ∧ (Instr.sccSel2 slot1 0 0x40).wellFormed = true := by decide

/-- UnusedKindsAreRefused: the kinds 10 and 15, the second with higher bits. -/
theorem witness_unused_kinds :
    ({ State.reset with pending := [⟨.txn, 10⟩] } : State).pending = ⟨.txn, 10⟩ :: [] ∧ 10 ≤ 10 % 16 ∧
    ({ State.reset with pending := [⟨.txn, 0xFF⟩] } : State).pending = ⟨.txn, 0xFF⟩ :: [] ∧ 10 ≤ 0xFF % 16 := by decide

/-- SlotByteLayout: bytes that differ in ignored bits, not expanded and expanded. -/
theorem witness_slot_bytes :
    (0x01#8).getLsbD 7 = (0x7D#8).getLsbD 7 ∧ (0x01#8).extractLsb' 0 2 = (0x7D#8).extractLsb' 0 2 ∧
    (0x8B#8).getLsbD 7 = (0xFB#8).getLsbD 7 ∧ (0x8B#8).extractLsb' 0 2 = (0xFB#8).extractLsb' 0 2 ∧
    (0x8B#8).extractLsb' 2 2 = (0xFB#8).extractLsb' 2 2 := by decide

/-- CartridgeAddressIsCutIntoWindows: the ends of the area. -/
theorem witness_cartridge_area :
    (0x4000 ≤ (0x4000#16).toNat ∧ (0x4000#16).toNat < 0xC000) ∧
    (0x4000 ≤ (0xBFFF#16).toNat ∧ (0xBFFF#16).toNat < 0xC000) := by decide

/-- ControlDecodeIsItsTable: the ends of a block in both modes. -/
theorem witness_control_decode :
    decodeCtrl .exact .konamiSCC 0x9000 = some 2 ∧ decodeCtrl .range .konamiSCC 0x97FF = some 2 ∧
    decodeCtrl .range .konami 0x9800 = some 2 ∧ decodeCtrl .range .konamiSCC 0x9800 = none := by decide

/-- EffectiveSlotNeedsFlagAndTable: both flags; the SlotId's flag alone; the table's alone. -/
theorem witness_effective_slot :
    ((⟨true, 2, 3⟩ : SlotId).expanded = true ∧ (Block.afterReset 0b1000).isExpanded 3 = true) ∧
    (Block.afterReset 0b1000).isExpanded 1 = false ∧ (⟨false, 2, 3⟩ : SlotId).expanded = false := by decide

/-- MapperTableKeepsKeysApart, UnregisterRemovesTheEntry: two keys of one primary. -/
theorem witness_keys_apart : (⟨3, none⟩ : EffSlot) ≠ ⟨3, some 0⟩ ∧
    State.reset.blk.mapper? (State.reset.blk.eff slot1) = none := by decide

/-- ResolveAnswersSlotPageOffset: the ends of a page and the top of the space. -/
theorem witness_resolve :
    ((1#2).toNat = (0x4000#16).toNat >>> 14 ∧ (0#14).toNat = (0x4000#16).toNat &&& 0x3FFF) ∧
    ((3#2).toNat = (0xFFFF#16).toNat >>> 14 ∧ (0x3FFF#14).toNat = (0xFFFF#16).toNat &&& 0x3FFF) := by decide

/-- SelectStoresOnePage: another page. -/
theorem witness_other_page : (3 : Page) ≠ 0 := by decide

/-- SecondaryIgnoredWhenNotExpanded: L2.1 row 8. -/
theorem witness_not_expanded :
    (⟨true, 2, 1⟩ : SlotId).expanded = true ∧ State.reset.blk.isExpanded (⟨true, 2, 1⟩ : SlotId).primary = false ∧
    pageOf 0x8000 = 2 := by decide

/-- SelectIsIdempotent: different SlotIds that are equal. -/
theorem witness_equal_slots : State.reset.blk.sameSlot ⟨true, 2, 1⟩ ⟨false, 0, 1⟩ = true := by decide

/-- SelectIsPageGranular: the ends of page 1, and its neighbours. -/
theorem witness_page_granular :
    (0x4000#16).toNat >>> 14 = (1#2).toNat ∧ (0x7FFF#16).toNat >>> 14 = (1#2).toNat ∧
    (0x3FFF#16).toNat >>> 14 ≠ (1#2).toNat ∧ (0x8000#16).toNat >>> 14 ≠ (1#2).toNat := by decide

/-- RegisterCreatesMapperState: one bank of 8 KB, and three of 16 KB. -/
theorem witness_register :
    (8192 = (if Mapper.konami = .ascii16 then 16384 else 8192) ∧ 0 < 8192 ∧ 8192 % 8192 = 0) ∧
    (16384 = (if Mapper.ascii16 = .ascii16 then 16384 else 8192) ∧ 0 < 49152 ∧ 49152 % 16384 = 0) := by decide

/-- RegisterReportsFirstReason: one bank less a byte, and half a bank of 16 KB. -/
theorem witness_not_multiple :
    (8191 ≠ 0 ∧ 8191 % (if Mapper.ascii8 = .ascii16 then 16384 else 8192) ≠ 0) ∧
    (8192 ≠ 0 ∧ 8192 % (if Mapper.ascii16 = .ascii16 then 16384 else 8192) ≠ 0) := by decide

/-- OrdinaryWriteLeavesBlock: no MapperState. -/
theorem witness_ordinary_write_plain : State.reset.blk.mapper? (State.reset.blk.eff slot1) = none := by decide

/-- OrdinaryWriteLeavesBlock: with the flag set, the two sides of the region, and pages 0 and 3. -/
theorem witness_ordinary_write :
    (withMapper .exact (konamiScc16 true)).blk.mapper? ((withMapper .exact (konamiScc16 true)).blk.eff slot1) =
      some (konamiScc16 true) ∧
    ∀ a ∈ [0x97FF#16, 0x9C00#16, 0x3FFF#16, 0xC000#16],
      decodeCtrl (withMapper .exact (konamiScc16 true)).ctrlDecode (konamiScc16 true).variant a = none ∧
      ¬ ((konamiScc16 true).variant = .konamiSCC ∧ (konamiScc16 true).scc = some true ∧
        0x9800 ≤ a.toNat ∧ a.toNat ≤ 0x9BFF) := by
  refine ⟨by decide, fun a ha => ?_⟩
  simp only [List.mem_cons, List.not_mem_nil, or_false] at ha
  rcases ha with rfl | rfl | rfl | rfl <;> decide

/-- RegisterWriteChangesOnlyItsRegister: KonamiSCC register 2, and a register of another variant. -/
theorem witness_register_write :
    (withMapper .range (konamiScc16 true)).blk.mapper? ((withMapper .range (konamiScc16 true)).blk.eff slot1) =
      some (konamiScc16 true) ∧
    decodeCtrl (withMapper .range (konamiScc16 true)).ctrlDecode .konamiSCC 0x97FF = some 2 ∧
    ¬ ((konamiScc16 true).variant = .konamiSCC ∧ 2 = 2 ∧ 0x3E#8 = 0x3F#8) ∧
    ¬ ((konamiScc16 true).variant = .konamiSCC ∧ 2 = 2 ∧ 0x40#8 = 0x3F#8) ∧
    2 < (konamiScc16 true).bank.length ∧ 0 ≠ 2 ∧ key1 ≠ ⟨1, some 0⟩ := by decide

/-- RegisterWriteChangesOnlyItsRegister: the value 0x3F at KonamiSCC register 2, under EXACT. -/
theorem witness_register_write_sccOn :
    (withMapper .exact (konamiScc16 false)).blk.mapper? ((withMapper .exact (konamiScc16 false)).blk.eff slot1) =
      some (konamiScc16 false) ∧
    decodeCtrl (withMapper .exact (konamiScc16 false)).ctrlDecode (konamiScc16 false).variant 0x9000 = some 2 ∧
    (konamiScc16 false).variant = .konamiSCC ∧
    stateOf (exec (.write slot1 0x9000 0x3F) (withMapper .exact (konamiScc16 false))) =
      some { withMapper .exact (konamiScc16 true) with result := .written (.consumed 2) } := by decide

/-- TranslateOutsideTheWindows: a mapper slot; the other clause is met by `witness_keys_apart`. -/
theorem witness_translate_outside :
    (withMapper .exact konami16).blk.mapper? ((withMapper .exact konami16).blk.eff slot1) = some konami16 := by decide

/-- WindowReadStaysInsideImage: the ends of the active SCC region, and the bytes beside it. -/
theorem witness_window_read_scc :
    (withMapper .exact (konamiScc16 true)).blk.Inv ∧
    (withMapper .exact (konamiScc16 true)).holds slot1 .konamiSCC (konamiScc16 true) ∧
    ((2 : Page) = 1 ∨ (2 : Page) = 2) ∧
    2 = (if Mapper.konamiSCC = .konami ∧ windowAt .konamiSCC 2 0x1800 = 0 then 0
      else (konamiScc16 true).bankAt (windowAt .konamiSCC 2 0x1800)) ∧
    (konamiScc16 true).scc = some true ∧ windowAt .konamiSCC 2 0x1800 = 2 ∧
    (0x1800#14).toNat = 0x1800 + (0#10).toNat ∧ (0x1BFF#14).toNat = 0x1800 + (0x3FF#10).toNat ∧
    ¬ (0x1800 ≤ (0x17FF#14).toNat) ∧ ¬ ((0x1C00#14).toNat ≤ 0x1BFF) :=
  ⟨withMapper_inv _ konamiScc16_wf.1, withMapper_holds _ _, by decide⟩

/-- WindowReadStaysInsideImage: Konami windows 0 and 3, the last bank of an ASCII16 image. -/
theorem witness_window_read_rom :
    ((withMapper .exact konami16).blk.Inv ∧ (withMapper .exact konami16).holds slot1 .konami konami16 ∧
      0 = (if Mapper.konami = .konami ∧ windowAt .konami 1 0x1FFF = 0 then 0
        else konami16.bankAt (windowAt .konami 1 0x1FFF)) ∧
      3 = (if Mapper.konami = .konami ∧ windowAt .konami 2 0x2000 = 0 then 0
        else konami16.bankAt (windowAt .konami 2 0x2000))) ∧
    ((withMapper .range { ascii16x8 with bank := [0, 7] }).blk.Inv ∧
      (withMapper .range { ascii16x8 with bank := [0, 7] }).holds slot1 .ascii16 { ascii16x8 with bank := [0, 7] } ∧
      7 = (if Mapper.ascii16 = .konami ∧ windowAt .ascii16 2 0x3FFF = 0 then 0
        else ({ ascii16x8 with bank := [0, 7] } : MapperState).bankAt (windowAt .ascii16 2 0x3FFF))) :=
  ⟨⟨withMapper_inv _ konami16_wf, withMapper_holds _ _, by decide⟩,
    ⟨withMapper_inv _ (by decide), withMapper_holds _ _, by decide⟩⟩

/-- WriteAndTranslateIgnoreAssign: two states with different slot tables. -/
theorem witness_same_but_assign :
    sameButAssign (withMapper .range konami16)
        { withMapper .range konami16 with blk := (withMapper .range konami16).blk.select 1 ⟨true, 1, 3⟩ } ∧
    (withMapper .range konami16).blk.assigned 1 ≠ ⟨true, 1, 3⟩ :=
  ⟨⟨rfl, rfl, rfl⟩, by decide⟩

/-- BankWriteShowsAtOnce: each variant, with an address of the window its register drives. -/
theorem witness_bank_write :
    ((withMapper .range konami16).holds slot1 .konami konami16 ∧ decodeCtrl .range .konami 0xBFFF = some 3 ∧
      3 < konami16.bank.length ∧ windowAt .konami 2 0x2000 = 3) ∧
    ((withMapper .exact (konamiScc16 true)).holds slot1 .konamiSCC (konamiScc16 true) ∧
      decodeCtrl .exact .konamiSCC 0x9000 = some 2 ∧ 2 < (konamiScc16 true).bank.length ∧
      ¬ (Mapper.konamiSCC = .konamiSCC ∧ 2 = 2 ∧ 0x3E#8 = 0x3F#8) ∧ windowAt .konamiSCC 2 0x1800 = 2) ∧
    ((withMapper .exact ascii8x8).holds slot1 .ascii8 ascii8x8 ∧ decodeCtrl .exact .ascii8 0x6000 = some 0 ∧
      0 < ascii8x8.bank.length ∧ windowAt .ascii8 1 0x1FFF = 0) ∧
    ((withMapper .exact ascii16x8).holds slot1 .ascii16 ascii16x8 ∧ decodeCtrl .exact .ascii16 0x7000 = some 1 ∧
      1 < ascii16x8.bank.length ∧ windowAt .ascii16 2 0x3FFF = 1) :=
  ⟨⟨withMapper_holds _ _, by decide⟩, ⟨withMapper_holds _ _, by decide⟩, ⟨withMapper_holds _ _, by decide⟩,
    ⟨withMapper_holds _ _, by decide⟩⟩

/-- KonamiSelectsStoreBank: EXACT at the base, RANGE at the end of the block, one clause each. -/
theorem witness_konami_selects :
    ((withMapper .exact konami16).holds slot1 .konami konami16 ∧ controlHit .exact 0x6000 0x7FFF 0x6000 ∧
      (0x6000#16).toNat = 0x6000 + (0#13).toNat) ∧
    ((withMapper .range konami16).holds slot1 .konami konami16 ∧ controlHit .range 0x8000 0x9FFF 0x9FFF ∧
      (0x9FFF#16).toNat = 0x8000 + (0x1FFF#13).toNat) ∧
    (controlHit .range 0xA000 0xBFFF 0xBFFF ∧ (0xBFFF#16).toNat = 0xA000 + (0x1FFF#13).toNat) :=
  ⟨⟨withMapper_holds _ _, rfl, by decide⟩, ⟨withMapper_holds _ _, ⟨by decide, by decide⟩, by decide⟩,
    ⟨by decide, by decide⟩, by decide⟩

/-- KonamiReadRule: windows 0 and 3. -/
theorem witness_konami_read :
    (withMapper .exact konami16).holds slot1 .konami konami16 ∧
    0 = ((1#2).toNat - 1) * 2 + (0x1FFF#14).toNat / 8192 ∧ 3 = ((2#2).toNat - 1) * 2 + (0x2000#14).toNat / 8192 :=
  ⟨withMapper_holds _ _, by decide⟩

/-- KonamiWindowZeroIsFixed: an image of one bank, at both ends of the window. -/
theorem witness_konami_window_zero :
    (withMapper .range { konami16 with romSize := 8192, bankCount := 1 }).holds slot1 .konami
      { konami16 with romSize := 8192, bankCount := 1 } ∧
    8192 ≤ ({ konami16 with romSize := 8192, bankCount := 1 } : MapperState).romSize ∧
    (0x4000 ≤ (0x4000#16).toNat ∧ (0x4000#16).toNat ≤ 0x5FFF) ∧ 0x4000 ≤ (0x5FFF#16).toNat ∧
    (0x5FFF#16).toNat ≤ 0x5FFF :=
  ⟨withMapper_holds _ _, by decide⟩

/-- SccSelectsStoreBank. -/
theorem witness_scc_selects :
    ((withMapper .exact (konamiScc16 true)).holds slot1 .konamiSCC (konamiScc16 true) ∧
      controlHit .exact 0x5000 0x57FF 0x5000 ∧ (0x5000#16).toNat = 0x5000 + (0#11).toNat) ∧
    ((withMapper .range (konamiScc16 false)).holds slot1 .konamiSCC (konamiScc16 false) ∧
      controlHit .range 0x7000 0x77FF 0x77FF ∧ (0x77FF#16).toNat = 0x7000 + (0x7FF#11).toNat) ∧
    (controlHit .range 0xB000 0xB7FF 0xB7FF ∧ (0xB7FF#16).toNat = 0xB000 + (0x7FF#11).toNat) :=
  ⟨⟨withMapper_holds _ _, rfl, by decide⟩, ⟨withMapper_holds _ _, ⟨by decide, by decide⟩, by decide⟩,
    ⟨by decide, by decide⟩, by decide⟩

/-- SccSelectTwoEndsRedirect, SccOnSetsFlagAndKeepsBank: the values beside 0x3F, in both modes. -/
theorem witness_scc_register_two :
    ((withMapper .exact (konamiScc16 true)).holds slot1 .konamiSCC (konamiScc16 true) ∧ 0x7F#8 ≠ 0x3F#8 ∧
      controlHit .exact 0x9000 0x97FF 0x9000 ∧ (0x9000#16).toNat = 0x9000 + (0#11).toNat) ∧
    ((withMapper .range (konamiScc16 false)).holds slot1 .konamiSCC (konamiScc16 false) ∧ 0x3E#8 ≠ 0x3F#8 ∧
      controlHit .range 0x9000 0x97FF 0x97FF ∧ (0x97FF#16).toNat = 0x9000 + (0x7FF#11).toNat) :=
  ⟨⟨withMapper_holds _ _, by decide, rfl, by decide⟩,
    ⟨withMapper_holds _ _, by decide, ⟨by decide, by decide⟩, by decide⟩⟩

/-- SccReadRule: the ends of the redirect, by offset and by window offset, and one byte outside it. -/
theorem witness_scc_read :
    (withMapper .exact (konamiScc16 true)).holds slot1 .konamiSCC (konamiScc16 true) ∧
    (konamiScc16 true).scc = some true ∧ 2 = ((2#2).toNat - 1) * 2 + (0x1BFF#14).toNat / 8192 ∧
    (0x1800#14).toNat = 0x1800 + (0#10).toNat ∧ (0x1BFF#14).toNat = 0x1800 + (0x3FF#10).toNat ∧
    (0x1BFF#13).toNat = 0x1800 + (0x3FF#10).toNat ∧ ¬ (0x1800 ≤ (0x17FF#14).toNat) ∧
    ¬ ((0x1C00#13).toNat ≤ 0x1BFF) :=
  ⟨withMapper_holds _ _, by decide⟩

/-- SccRegionWriteReachesDevice, RowsAreTheTransactionsTheyDecode: the ends of the region, on the bus too. -/
theorem witness_scc_region_write :
    (withMapper .range (konamiScc16 true)).holds slot1 .konamiSCC (konamiScc16 true) ∧
    (konamiScc16 true).scc = some true ∧ (0x9800#16).toNat = 0x9800 + (0#10).toNat ∧
    (0x9BFF#16).toNat = 0x9800 + (0x3FF#10).toNat ∧
    (withMapper .range (konamiScc16 true)).blk.eff ((withMapper .range (konamiScc16 true)).blk.assigned 2) =
      (withMapper .range (konamiScc16 true)).blk.eff slot1 :=
  ⟨withMapper_holds _ _, by decide⟩

/-- SccRegionIsRomWhileFlagClear. -/
theorem witness_scc_region_rom :
    (withMapper .exact (konamiScc16 false)).holds slot1 .konamiSCC (konamiScc16 false) ∧
    (konamiScc16 false).scc ≠ some true ∧ (0x9BFF#16).toNat = 0x9800 + (0x3FF#10).toNat :=
  ⟨withMapper_holds _ _, by decide⟩

/-- Ascii8SelectsStoreBank. -/
theorem witness_ascii8_selects :
    ((withMapper .exact ascii8x8).holds slot1 .ascii8 ascii8x8 ∧ controlHit .exact 0x6000 0x67FF 0x6000 ∧
      (0x6000#16).toNat = 0x6000 + (0#11).toNat) ∧
    ((withMapper .range ascii8x8).holds slot1 .ascii8 ascii8x8 ∧ controlHit .range 0x6800 0x6FFF 0x6FFF ∧
      (0x6FFF#16).toNat = 0x6800 + (0x7FF#11).toNat) ∧
    (controlHit .range 0x7000 0x77FF 0x77FF ∧ (0x77FF#16).toNat = 0x7000 + (0x7FF#11).toNat) ∧
    (controlHit .range 0x7800 0x7FFF 0x7FFF ∧ (0x7FFF#16).toNat = 0x7800 + (0x7FF#11).toNat) :=
  ⟨⟨withMapper_holds _ _, rfl, by decide⟩, ⟨withMapper_holds _ _, ⟨by decide, by decide⟩, by decide⟩,
    ⟨⟨by decide, by decide⟩, by decide⟩, ⟨by decide, by decide⟩, by decide⟩

/-- Ascii8ReadRule, Ascii16SelectsStoreBank, Ascii16ReadRule. -/
theorem witness_ascii_rest :
    (withMapper .exact ascii8x8).holds slot1 .ascii8 ascii8x8 ∧
    ((withMapper .exact ascii16x8).holds slot1 .ascii16 ascii16x8 ∧ controlHit .exact 0x6000 0x67FF 0x6000 ∧
      (0x6000#16).toNat = 0x6000 + (0#11).toNat) ∧
    ((withMapper .range ascii16x8).holds slot1 .ascii16 ascii16x8 ∧ controlHit .range 0x7000 0x77FF 0x77FF ∧
      (0x77FF#16).toNat = 0x7000 + (0x7FF#11).toNat) :=
  ⟨withMapper_holds _ _, ⟨withMapper_holds _ _, rfl, by decide⟩,
    ⟨withMapper_holds _ _, ⟨by decide, by decide⟩, by decide⟩⟩

/-- UnmatchedWritesAreDiscarded: every clause of `selectsNothing`, at an end of its range. -/
theorem witness_unmatched :
    (selectsNothing .konami .range 0x5FFF ∧ selectsNothing .konami .range 0xC000 ∧
      selectsNothing .konami .exact 0x6001) ∧
    (selectsNothing .konamiSCC .range 0x4FFF ∧ selectsNothing .konamiSCC .range 0xC000 ∧
      selectsNothing .konamiSCC .range 0xA000 ∧ selectsNothing .konamiSCC .exact 0x97FF) ∧
    (selectsNothing .ascii8 .range 0x5FFF ∧ selectsNothing .ascii8 .range 0x8000 ∧
      selectsNothing .ascii8 .exact 0x67FF) ∧
    (selectsNothing .ascii16 .range 0x5FFF ∧ selectsNothing .ascii16 .range 0x8000 ∧
      selectsNothing .ascii16 .range 0x7800 ∧ selectsNothing .ascii16 .exact 0x6001) := by
  refine ⟨⟨?_, ?_, ?_⟩, ⟨?_, ?_, ?_, ?_⟩, ⟨?_, ?_, ?_⟩, ?_, ?_, ?_, ?_⟩ <;> simp [selectsNothing]

/-- BusWriteReachesItsPageOnly: another key; and page 1 resolved to an ASCII8 slot, page 2 elsewhere. -/
theorem witness_bus_write :
    key1 ≠ State.reset.blk.eff (State.reset.blk.assigned (pageOf 0x7000)) ∧
    (withMapper .range ascii8x8).blk.mapper? ((withMapper .range ascii8x8).blk.eff
      ((withMapper .range ascii8x8).blk.assigned 1)) = some ascii8x8 ∧ ascii8x8.variant = .ascii8 := by decide

/-- EveryStepKeepsInvariant: a state with a mapper and a pending WRITE that selects a bank. -/
theorem witness_invariant :
    ({ withMapper .exact konami16 with pending := [encode (.write slot1 0x6000 0xFF)] } : State).blk.Inv ∧
    ∃ t, step { withMapper .exact konami16 with pending := [encode (.write slot1 0x6000 0xFF)] } = .next t :=
  ⟨withMapper_inv .exact konami16_wf, _, rfl⟩

/-- StepRunsDecodedInstruction: a pending record that decodes, and no record. -/
theorem witness_step :
    ({ State.reset with pending := [⟨.txn, 7 + 16 * 0x9C00⟩] } : State).pending = ⟨.txn, 7 + 16 * 0x9C00⟩ :: [] ∧
    decode ⟨.txn, 7 + 16 * 0x9C00⟩ = .ok (.busRead 0x9C00) ∧ State.reset.pending = [] := by decide

/-- EveryInstructionCompletes: a REGISTER that reports a reason. -/
theorem witness_config_error :
    resultOf (exec (.register slot1 none 0) State.reset) = some (.configError .unsupportedVariant) := by decide

/-- BlockChangesOnlyByItsWriters: a read; a WRITE, a row, a BUSWRITE, a SELECT and a RESET that change S. -/
theorem witness_effects :
    readsOnly (.busRead 0x9C00) = true ∧
    registersOf (exec (.write slot1 0x6000 5) (withMapper .exact konami16)) ≠
      some (konami16.bank, konami16.scc) ∧
    registersOf (exec (.konamiSel1 slot1 0x1FFF 5) (withMapper .range konami16)) ≠
      some (konami16.bank, konami16.scc) ∧
    registersOf (exec (.busWrite 0x6000 5) (withMapper .exact konami16)) ≠
      some (konami16.bank, konami16.scc) ∧
    ((stateOf (exec (.select 0 slot1) State.reset)).map State.blk) ≠ some State.reset.blk ∧
    ((stateOf (exec (.reset 1) State.reset)).map State.blk) ≠ some State.reset.blk := by decide

/-- SlotTablesHaveFewWriters: a SELECT that changes `assign`, a RESET that changes `exp`. -/
theorem witness_few_writers :
    ((stateOf (exec (.select 0 slot1) State.reset)).map fun t => t.blk.assigned 0) = some slot1 ∧
    State.reset.blk.assigned 0 ≠ slot1 ∧
    ((stateOf (exec (.reset 1) State.reset)).map fun t => t.blk.exp) = some 1 ∧ State.reset.blk.exp ≠ 1 := by decide

/-- GeometryIsFixedAtRegistration: a WRITE, with an entry and without one. -/
theorem witness_geometry :
    (∃ t, exec (.write slot1 0x6000 5) (withMapper .exact konami16) = .next t) ∧
    (∀ slot v n, Instr.write slot1 0x6000 5 ≠ .register slot v n) ∧
    (∀ slot, Instr.write slot1 0x6000 5 ≠ .unregister slot) ∧ (∀ e, Instr.write slot1 0x6000 5 ≠ .reset e) ∧
    (withMapper .exact konami16).blk.mapper? key1 = some konami16 ∧
    (withMapper .exact konami16).blk.mapper? ⟨2, none⟩ = none :=
  ⟨⟨_, rfl⟩, by simp, by simp, by simp, by decide⟩

/-- RowsAreTheTransactionsTheyDecode: a row that is no SCC.REGION_WRITE; its other clause is met by
`witness_scc_region_write`. -/
theorem witness_rows : ∀ slot off x, Instr.sccSccOn slot1 0 ≠ .sccRegionWrite slot off x := by simp

end Sys2Proof.Tests.Slice0
end

/-! The encoding family (30_encoding.md). -/

namespace Sys2Proof.Machine

/-- Settles O5: the shift and the mask of R80 are the quotient and the remainder by 2^14 that
`pageOf_toNat` and `offsetOf_toNat` give. -/
theorem addressIsCutIntoPageAndOffset : Obligations.AddressIsCutIntoPageAndOffset := by
  intro a
  constructor
  · rw [pageOf_toNat, Nat.shiftRight_eq_div_pow]
  · rw [offsetOf_toNat]
    exact (Nat.and_two_pow_sub_one_eq_mod a.toNat 14).symm

end Sys2Proof.Machine

/-! The slot resolver's transactions (40_slot_resolver.md). -/

namespace Sys2Proof.Machine

/-! ## One equation per transaction -/

theorem exec_resolve (a : Addr) (s : State) :
    exec (.resolve a) s =
      .next { s with result := .resolved (s.blk.eff (s.blk.assigned (pageOf a))) (pageOf a) (offsetOf a) } := rfl

theorem exec_select (p : Page) (x : SlotId) (s : State) :
    exec (.select p x) s = .next { s with blk := s.blk.select p x, result := .nothing } := rfl

theorem exec_isExp (p : BitVec 2) (s : State) :
    exec (.isExp p) s = .next { s with result := .expanded (s.blk.isExpanded p) } := rfl

/-- On a primary that is not expanded the secondary index plays no part (10 R23). -/
theorem eff_of_isExpanded_eq_false {b : Block} {x : SlotId} (h : b.isExpanded x.primary = false) :
    b.eff x = ⟨x.primary, none⟩ := by
  have hexp : b.exp.getLsbD x.primary.toNat = false := h
  simp [Block.eff, hexp]

/-! ## The statements -/

/-- Settles O10: R80's cut of the address fixes `p` and `o` as the page and the offset that RESOLVE answers. -/
theorem resolveAnswersSlotPageOffset : Obligations.ResolveAnswersSlotPageOffset := by
  intro s a p o hp ho
  obtain ⟨hpage, hoffset⟩ := addressIsCutIntoPageAndOffset a
  have ep : p = pageOf a := BitVec.eq_of_toNat_eq (hp.trans hpage.symm)
  have eo : o = offsetOf a := BitVec.eq_of_toNat_eq (ho.trans hoffset.symm)
  rw [ep, eo]
  exact exec_resolve a s

/-- Settles O11, by the read-after-write laws of `Block.select`. -/
theorem selectStoresOnePage : Obligations.SelectStoresOnePage := by
  intro s p x
  exact ⟨s.blk.select p x, exec_select p x s, assigned_select_same s.blk p x,
    fun _ hq => assigned_select_ne s.blk x hq, select_exp s.blk p x, select_mappers s.blk p x⟩

/-- Settles O12: `isExpanded` is the bit of the expansion table that the statement reads. -/
theorem isExpAnswersTheFlag : Obligations.IsExpAnswersTheFlag := fun s p => exec_isExp p s

/-- Settles O13: SELECT leaves the expansion table, so the SlotId that RESOLVE reads back from the page has
no secondary index in effect. -/
theorem secondaryIgnoredWhenNotExpanded : Obligations.SecondaryIgnoredWhenNotExpanded := by
  intro s p x a _ hprimary hpage
  refine ⟨_, exec_select p x s, assigned_select_same s.blk p x, rfl, ?_⟩
  have heff : (s.blk.select p x).eff ((s.blk.select p x).assigned p) = ⟨x.primary, none⟩ := by
    rw [assigned_select_same, select_eff, eff_of_isExpanded_eq_false hprimary]
  rw [exec_resolve, hpage, heff]

end Sys2Proof.Machine

/-! The Konami mapper (42_konami.md). -/

namespace Sys2Proof.Machine

/-! ## Writes and reads of a slot that holds a mapper -/

/-- A WRITE at a control address stores a bank and nothing else (41 R134, R136), but for KonamiSCC register 2,
whose rule touches the flag. -/
theorem exec_write_bankSelected {s : State} {slot : SlotId} {v : Mapper} {m : MapperState} {a : Addr} {i : Nat}
    (h : s.holds slot v m) (hd : decodeCtrl s.ctrlDecode v a = some i) (hflag : ¬ (v = .konamiSCC ∧ i = 2))
    (x : Byte) : exec (.write slot a x) s = .next (s.bankSelected slot m i x) := by
  obtain ⟨hm, rfl⟩ := h
  have hrule : m.writeRegister i x = m.selectBank i x := by rw [writeRegister_eq hd, if_neg hflag]
  calc exec (.write slot a x) s
      = s.commit (s.blk.setMapper (s.blk.eff slot) (some (m.writeRegister i x))) (.written (.consumed i)) :=
        execWrite_register x hm hd
    _ = .next (s.bankSelected slot m i x) := by rw [hrule]; rfl

/-- A CTRL_WRITE row whose rule is a plain bank select, at its control address. -/
theorem ctrlRow_bankSelected {s : State} {slot : SlotId} {v : Mapper} {m : MapperState} {a : Addr} {i : Nat}
    (h : s.holds slot v m) (hd : decodeCtrl s.ctrlDecode v a = some i) (x : Byte) :
    s.ctrlRow v i (fun m => m.selectBank i x) slot a x = .next (s.bankSelected slot m i x) := by
  obtain ⟨hm, hv⟩ := h
  simp only [State.ctrlRow, hm, hv, hd, and_self, if_true]
  rfl

/-- A WIN_READ row on a slot of its variant answers its rule's location, whatever the address. -/
theorem winRow_of_holds {s : State} {slot : SlotId} {v : Mapper} {m : MapperState} (h : s.holds slot v m)
    (rule : MapperState → EffSlot → Loc) (a : Addr) :
    s.winRow v rule slot a = .next (s.locating (rule m (s.blk.eff slot))) := by
  obtain ⟨hm, hv⟩ := h
  simp only [State.winRow, hm, hv, if_true]
  rfl

/-- TRANSLATE in the cartridge area is the variant's read rule (41 R137). -/
theorem exec_translate_of_holds {s : State} {slot : SlotId} {v : Mapper} {m : MapperState} {p : Page}
    (h : s.holds slot v m) (hp : p = 1 ∨ p = 2) (o : Off14) :
    exec (.translate slot p o) s = .next (s.locating (m.readLoc (s.blk.eff slot) p o)) := by
  have harea : inCartridgeArea p = true := (inCartridgeArea_iff p).mpr hp
  have hloc : s.blk.translate (s.blk.eff slot) p o = m.readLoc (s.blk.eff slot) p o := by
    simp [Block.translate, h.1, harea]
  exact congrArg (fun loc => Host.Outcome.next (s.locating loc)) hloc

/-- A byte of an 8 KB bank, in the terms of the statements (30 R86). -/
theorem rom8_eq_romAt (m : MapperState) (k : EffSlot) (bank : Nat) (off : BitVec 13) :
    m.rom8 k bank off = romAt k m bank 8192 off.toNat := rfl

/-! ## One equation per row -/

theorem exec_konamiSel1 (slot : SlotId) (off : BitVec 13) (x : Byte) (s : State) :
    exec (.konamiSel1 slot off x) s =
      s.ctrlRow .konami 1 (fun m => m.selectBank 1 x) slot (regionAddr 3 off) x := rfl

theorem exec_konamiSel2 (slot : SlotId) (off : BitVec 13) (x : Byte) (s : State) :
    exec (.konamiSel2 slot off x) s =
      s.ctrlRow .konami 2 (fun m => m.selectBank 2 x) slot (regionAddr 4 off) x := rfl

theorem exec_konamiSel3 (slot : SlotId) (off : BitVec 13) (x : Byte) (s : State) :
    exec (.konamiSel3 slot off x) s =
      s.ctrlRow .konami 3 (fun m => m.selectBank 3 x) slot (regionAddr 5 off) x := rfl

theorem exec_konamiWin0Read (slot : SlotId) (off : BitVec 13) (s : State) :
    exec (.konamiWin0Read slot off) s =
      s.winRow .konami (fun m key => m.rom8 key 0 off) slot (regionAddr 2 off) := rfl

theorem exec_konamiWin1Read (slot : SlotId) (off : BitVec 13) (s : State) :
    exec (.konamiWin1Read slot off) s =
      s.winRow .konami (fun m key => m.rom8 key (m.bankAt 1) off) slot (regionAddr 3 off) := rfl

theorem exec_konamiWin2Read (slot : SlotId) (off : BitVec 13) (s : State) :
    exec (.konamiWin2Read slot off) s =
      s.winRow .konami (fun m key => m.rom8 key (m.bankAt 2) off) slot (regionAddr 4 off) := rfl

theorem exec_konamiWin3Read (slot : SlotId) (off : BitVec 13) (s : State) :
    exec (.konamiWin3Read slot off) s =
      s.winRow .konami (fun m key => m.rom8 key (m.bankAt 3) off) slot (regionAddr 5 off) := rfl

/-! ## The selects (42 R162 to R164) -/

/-- An address is the region address of its offset from the region's base. -/
theorem regionAddr_of_toNat {a : Addr} {r : BitVec 3} {off : BitVec 13}
    (h : a.toNat = r.toNat * 8192 + off.toNat) : regionAddr r off = a :=
  BitVec.eq_of_toNat_eq ((regionAddr_toNat r off).trans h.symm)

/-- A control address of Konami register `i` is in the 8 KB region `i + 2`, and decodes to it in both modes. -/
theorem decodeCtrl_konami_of_controlHit {mode : CtrlDecode} {base last a : Addr} {i : Nat}
    (hi : i = 1 ∨ i = 2 ∨ i = 3) (hbase : base.toNat = (i + 2) * 8192)
    (hlast : last.toNat = (i + 2) * 8192 + 8191) (h : controlHit mode base last a) :
    decodeCtrl mode .konami a = some i := by
  cases mode with
  | exact =>
    obtain rfl : a = base := h
    rw [decodeCtrl_konami_exact, hbase]
    obtain rfl | rfl | rfl := hi <;> rfl
  | range =>
    obtain ⟨hle, hge⟩ : base ≤ a ∧ a ≤ last := h
    have hregion : a.toNat / 8192 = i + 2 := by rw [BitVec.le_def] at hle hge; omega
    rw [decodeCtrl_konami_range, hregion]
    obtain rfl | rfl | rfl := hi <;> rfl

/-- The select of Konami register `i`, whose 8 KB region is `r`: the WRITE at its control address, and the row
that decodes it. -/
theorem konami_select_stores {s : State} {slot : SlotId} {m : MapperState} {base last a : Addr} {r : BitVec 3}
    {i : Nat} (h : s.holds slot .konami m) (hi : i = 1 ∨ i = 2 ∨ i = 3) (hr : r.toNat = i + 2)
    (hbase : base.toNat = r.toNat * 8192) (hlast : last.toNat = r.toNat * 8192 + 8191)
    (hit : controlHit s.ctrlDecode base last a) (off : BitVec 13) (x : Byte) :
    exec (.write slot a x) s = .next (s.bankSelected slot m i x) ∧
    (a.toNat = base.toNat + off.toNat →
      s.ctrlRow .konami i (fun m => m.selectBank i x) slot (regionAddr r off) x =
        .next (s.bankSelected slot m i x)) := by
  have hd : decodeCtrl s.ctrlDecode .konami a = some i :=
    decodeCtrl_konami_of_controlHit hi (hr ▸ hbase) (hr ▸ hlast) hit
  refine ⟨exec_write_bankSelected h hd (by simp) x, fun ha => ?_⟩
  rw [regionAddr_of_toNat (hbase ▸ ha)]
  exact ctrlRow_bankSelected h hd x

/-- Settles O25: each clause is `konami_select_stores` at the register and its region. -/
theorem konamiSelectsStoreBank : Obligations.KonamiSelectsStoreBank := by
  intro s slot m a off x h
  simp only [exec_konamiSel1, exec_konamiSel2, exec_konamiSel3]
  refine ⟨fun hit => ?_, fun hit => ?_, fun hit => ?_⟩
  · exact konami_select_stores h (by decide) (by decide) (by decide) (by decide) hit off x
  · exact konami_select_stores h (by decide) (by decide) (by decide) (by decide) hit off x
  · exact konami_select_stores h (by decide) (by decide) (by decide) (by decide) hit off x

/-! ## The read rule (42 R165) -/

/-- The Konami read rule as numbers: bank 0 in window 0, the window's register elsewhere. -/
theorem readLoc_konami {m : MapperState} (hv : m.variant = .konami) (k : EffSlot) (p : Page) (o : Off14) :
    m.readLoc k p o =
      romAt k m (if window8 p o = 0 then 0 else m.bankAt (window8 p o)) 8192 (o.toNat % 8192) := by
  simp only [MapperState.readLoc, hv, MapperState.konamiRead, rom8_eq_romAt, bankOffset8_toNat]

/-- Settles O26: TRANSLATE is the read rule at the window of the address; each row has its window's bank
written in its rule. -/
theorem konamiReadRule : Obligations.KonamiReadRule := by
  intro s slot m h
  refine ⟨fun p o w hp hw => ?_, fun off => ⟨?_, ?_, ?_, ?_⟩⟩
  · rw [exec_translate_of_holds h hp, readLoc_konami h.2, window8_eq, hw]
  · rw [exec_konamiWin0Read, winRow_of_holds h, rom8_eq_romAt]
  · rw [exec_konamiWin1Read, winRow_of_holds h, rom8_eq_romAt]
  · rw [exec_konamiWin2Read, winRow_of_holds h, rom8_eq_romAt]
  · rw [exec_konamiWin3Read, winRow_of_holds h, rom8_eq_romAt]

end Sys2Proof.Machine

/-! The Konami+SCC mapper (43_konami_scc.md). -/

namespace Sys2Proof.Machine

/-! ## One equation per row -/

theorem exec_sccSel0 (slot : SlotId) (off : BitVec 11) (x : Byte) (s : State) :
    exec (.sccSel0 slot off x) s =
      s.ctrlRow .konamiSCC 0 (fun m => m.selectBank 0 x) slot (blockAddr 10 off) x := rfl

theorem exec_sccSel1 (slot : SlotId) (off : BitVec 11) (x : Byte) (s : State) :
    exec (.sccSel1 slot off x) s =
      s.ctrlRow .konamiSCC 1 (fun m => m.selectBank 1 x) slot (blockAddr 14 off) x := rfl

theorem exec_sccSel3 (slot : SlotId) (off : BitVec 11) (x : Byte) (s : State) :
    exec (.sccSel3 slot off x) s =
      s.ctrlRow .konamiSCC 3 (fun m => m.selectBank 3 x) slot (blockAddr 22 off) x := rfl

theorem exec_sccSccOn (slot : SlotId) (off : BitVec 11) (s : State) :
    exec (.sccSccOn slot off) s =
      s.ctrlRow .konamiSCC 2 MapperState.sccSccOn slot (blockAddr 18 off) 0x3F := rfl

theorem exec_sccWin0Read (slot : SlotId) (off : BitVec 13) (s : State) :
    exec (.sccWin0Read slot off) s =
      s.winRow .konamiSCC (fun m key => m.rom8 key (m.bankAt 0) off) slot (regionAddr 2 off) := rfl

theorem exec_sccWin1Read (slot : SlotId) (off : BitVec 13) (s : State) :
    exec (.sccWin1Read slot off) s =
      s.winRow .konamiSCC (fun m key => m.rom8 key (m.bankAt 1) off) slot (regionAddr 3 off) := rfl

theorem exec_sccWin2Read (slot : SlotId) (off : BitVec 13) (s : State) :
    exec (.sccWin2Read slot off) s =
      s.winRow .konamiSCC
        (fun m key =>
          if m.scc = some true ∧ 0x1800#13 ≤ off ∧ off ≤ 0x1BFF#13 then
            .scc key ((off - 0x1800#13).setWidth 10)
          else m.rom8 key (m.bankAt 2) off)
        slot (regionAddr 4 off) := rfl

theorem exec_sccWin3Read (slot : SlotId) (off : BitVec 13) (s : State) :
    exec (.sccWin3Read slot off) s =
      s.winRow .konamiSCC (fun m key => m.rom8 key (m.bankAt 3) off) slot (regionAddr 5 off) := rfl

/-- The region row while the flag is 1 (43 R176). -/
theorem exec_sccRegionRead_of_scc {s : State} {slot : SlotId} {m : MapperState} (h : s.holds slot .konamiSCC m)
    (hscc : m.scc = some true) (off : BitVec 10) :
    exec (.sccRegionRead slot off) s = .next (s.locating (.scc (s.blk.eff slot) off)) := by
  obtain ⟨hm, hv⟩ := h
  have hredirects : m.redirects = true := by simp [MapperState.redirects, hv, hscc]
  show execSccRegionRead slot off s = _
  simp only [execSccRegionRead, hm, hredirects, if_true]
  rfl

/-! ## The selects (43 R171, R172, R175) -/

/-- An address is the block address of its offset from the block's base. -/
theorem blockAddr_of_toNat {a : Addr} {r : BitVec 5} {off : BitVec 11}
    (h : a.toNat = r.toNat * 2048 + off.toNat) : blockAddr r off = a :=
  BitVec.eq_of_toNat_eq ((blockAddr_toNat r off).trans h.symm)

/-- A control address of KonamiSCC register `i` is in the 2 KB block `4 * i + 10`, and decodes to it in both
modes. -/
theorem decodeCtrl_scc_of_controlHit {mode : CtrlDecode} {base last a : Addr} {i : Nat} (hi : i < 4)
    (hbase : base.toNat = (4 * i + 10) * 2048) (hlast : last.toNat = (4 * i + 10) * 2048 + 2047)
    (h : controlHit mode base last a) : decodeCtrl mode .konamiSCC a = some i := by
  cases mode with
  | exact =>
    obtain rfl : a = base := h
    rw [decodeCtrl_scc_exact, hbase]
    interval_cases i <;> rfl
  | range =>
    obtain ⟨hle, hge⟩ : base ≤ a ∧ a ≤ last := h
    have hblock : a.toNat / 2048 = 4 * i + 10 := by rw [BitVec.le_def] at hle hge; omega
    rw [decodeCtrl_scc_range, hblock]
    interval_cases i <;> rfl

/-- The select of KonamiSCC register `i` other than 2, whose 2 KB block is `r`: the WRITE at its control
address, and the row that decodes it. -/
theorem scc_select_stores {s : State} {slot : SlotId} {m : MapperState} {base last a : Addr} {r : BitVec 5}
    {i : Nat} (h : s.holds slot .konamiSCC m) (hi : i < 4) (hne : i ≠ 2) (hr : r.toNat = 4 * i + 10)
    (hbase : base.toNat = r.toNat * 2048) (hlast : last.toNat = r.toNat * 2048 + 2047)
    (hit : controlHit s.ctrlDecode base last a) (off : BitVec 11) (x : Byte) :
    exec (.write slot a x) s = .next (s.bankSelected slot m i x) ∧
    (a.toNat = base.toNat + off.toNat →
      s.ctrlRow .konamiSCC i (fun m => m.selectBank i x) slot (blockAddr r off) x =
        .next (s.bankSelected slot m i x)) := by
  have hd : decodeCtrl s.ctrlDecode .konamiSCC a = some i :=
    decodeCtrl_scc_of_controlHit hi (hr ▸ hbase) (hr ▸ hlast) hit
  refine ⟨exec_write_bankSelected h hd (fun hflag => hne hflag.2) x, fun ha => ?_⟩
  rw [blockAddr_of_toNat (hbase ▸ ha)]
  exact ctrlRow_bankSelected h hd x

/-- Settles O28: each clause is `scc_select_stores` at the register and its block. -/
theorem sccSelectsStoreBank : Obligations.SccSelectsStoreBank := by
  intro s slot m a off x h
  simp only [exec_sccSel0, exec_sccSel1, exec_sccSel3]
  refine ⟨fun hit => ?_, fun hit => ?_, fun hit => ?_⟩
  · exact scc_select_stores h (by decide) (by decide) (by decide) (by decide) (by decide) hit off x
  · exact scc_select_stores h (by decide) (by decide) (by decide) (by decide) (by decide) hit off x
  · exact scc_select_stores h (by decide) (by decide) (by decide) (by decide) (by decide) hit off x

/-! ## SCC.SCCON (43 R174) -/

/-- The row SCC.SCCON is the WRITE of 0x3F that it decodes, in every state. -/
theorem exec_sccSccOn_eq_write (slot : SlotId) (off : BitVec 11) (s : State) :
    exec (.sccSccOn slot off) s = exec (.write slot (blockAddr 18 off) 0x3F) s := by
  rw [exec_sccSccOn]
  exact ctrlRow_eq_execWrite fun m hv => by simp [MapperState.writeRegister, hv]

/-- Settles O30: register 2's rule at 0x3F is the flag alone; the row is that WRITE. -/
theorem sccOnSetsFlagAndKeepsBank : Obligations.SccOnSetsFlagAndKeepsBank := by
  rintro s t slot m a off ⟨hm, hv⟩ hit rfl
  have hd : decodeCtrl s.ctrlDecode m.variant a = some 2 :=
    hv ▸ decodeCtrl_scc_of_controlHit (by decide) (by decide) (by decide) hit
  have hrule : m.writeRegister 2 0x3F = m.setScc true := by
    rw [writeRegister_eq hd, if_pos ⟨hv, rfl⟩]
    exact if_pos rfl
  have hwrite := execWrite_register 0x3F hm hd
  rw [hrule] at hwrite
  refine ⟨hwrite, fun ha => ?_⟩
  rw [exec_sccSccOn_eq_write, blockAddr_of_toNat (r := 18) ha]
  exact hwrite

/-! ## The read rule (43 R176) -/

section Redirect

variable {n : Nat}

/-- A window offset keeps its number at every width that holds one. -/
theorem toNat_windowOffset (hn : 13 ≤ n) {c : Nat} (hc : c < 2 ^ 13) : (BitVec.ofNat n c).toNat = c := by
  rw [BitVec.toNat_ofNat]
  exact Nat.mod_eq_of_lt (lt_of_lt_of_le hc (Nat.pow_le_pow_right (by decide) hn))

/-- The redirected offsets as numbers. -/
theorem redirectOffset_iff (hn : 13 ≤ n) (o : BitVec n) :
    (0x1800#n ≤ o ∧ o ≤ 0x1BFF#n) ↔ 0x1800 ≤ o.toNat ∧ o.toNat ≤ 0x1BFF := by
  rw [BitVec.le_def, BitVec.le_def, toNat_windowOffset hn (by decide), toNat_windowOffset hn (by decide)]

/-- An offset in the SCC block is a redirected window offset. -/
theorem redirectOffset_of_toNat (hn : 13 ≤ n) {o : BitVec n} {x : BitVec 10} (h : o.toNat = 0x1800 + x.toNat) :
    0x1800#n ≤ o ∧ o ≤ 0x1BFF#n := by
  rw [redirectOffset_iff hn]
  omega

/-- The register of the SCC block at a redirected window offset. -/
theorem redirectOffset_sub (hn : 13 ≤ n) {o : BitVec n} {x : BitVec 10} (h : o.toNat = 0x1800 + x.toNat) :
    (o - 0x1800#n).setWidth 10 = x := by
  apply BitVec.eq_of_toNat_eq
  rw [BitVec.toNat_setWidth, BitVec.toNat_sub_of_le (redirectOffset_of_toNat hn h).1,
    toNat_windowOffset hn (by decide), h, Nat.add_sub_cancel_left]
  exact Nat.mod_eq_of_lt x.isLt

end Redirect

/-- The SCC read rule at a redirected offset: a register of the SCC block. -/
theorem readLoc_scc_redirect {m : MapperState} (hv : m.variant = .konamiSCC) (hscc : m.scc = some true)
    (k : EffSlot) {p : Page} {o : Off14} {x : BitVec 10} (hw : window8 p o = 2)
    (ho : o.toNat = 0x1800 + x.toNat) : m.readLoc k p o = .scc k x := by
  simp only [MapperState.readLoc, hv, MapperState.sccRead]
  rw [if_pos ⟨hw, hscc, redirectOffset_of_toNat (by decide) ho⟩, redirectOffset_sub (by decide) ho]

/-- The SCC read rule elsewhere: a byte of the window's bank. -/
theorem readLoc_scc_rom {m : MapperState} (hv : m.variant = .konamiSCC) (k : EffSlot) {p : Page} {o : Off14}
    (h : ¬ (window8 p o = 2 ∧ m.scc = some true ∧ 0x1800 ≤ o.toNat ∧ o.toNat ≤ 0x1BFF)) :
    m.readLoc k p o = romAt k m (m.bankAt (window8 p o)) 8192 (o.toNat % 8192) := by
  rw [← redirectOffset_iff (by decide)] at h
  simp only [MapperState.readLoc, hv, MapperState.sccRead]
  rw [if_neg h, rom8_eq_romAt, bankOffset8_toNat]

/-- Settles O31: TRANSLATE is the read rule at the window of the address; a row has its window's bank written
in its rule, and WIN2_READ the redirect as well. -/
theorem sccReadRule : Obligations.SccReadRule := by
  intro s slot m h
  refine ⟨fun p o w hp hw => ?_, fun off => ⟨?_, ?_, fun x hscc ho => ?_, fun hrom => ?_, ?_⟩,
    fun x hscc => exec_sccRegionRead_of_scc h hscc x⟩
  · obtain rfl : w = window8 p o := hw.trans (window8_eq p o).symm
    rw [exec_translate_of_holds h hp]
    refine ⟨fun x hwin hscc ho => ?_, fun hrom => ?_⟩
    · rw [readLoc_scc_redirect h.2 hscc _ hwin ho]
    · rw [readLoc_scc_rom h.2 _ hrom]
  · rw [exec_sccWin0Read, winRow_of_holds h, rom8_eq_romAt]
  · rw [exec_sccWin1Read, winRow_of_holds h, rom8_eq_romAt]
  · rw [exec_sccWin2Read, winRow_of_holds h, if_pos ⟨hscc, redirectOffset_of_toNat (by decide) ho⟩,
      redirectOffset_sub (by decide) ho]
  · rw [← redirectOffset_iff (by decide)] at hrom
    rw [exec_sccWin2Read, winRow_of_holds h, if_neg hrom, rom8_eq_romAt]
  · rw [exec_sccWin3Read, winRow_of_holds h, rom8_eq_romAt]

end Sys2Proof.Machine

/-! The ASCII8 mapper (44_ascii8.md). -/

namespace Sys2Proof.Machine

/-! ## One equation per window row -/

theorem exec_ascii8Win0Read (slot : SlotId) (off : BitVec 13) (s : State) :
    exec (.ascii8Win0Read slot off) s =
      s.winRow .ascii8 (fun m key => m.rom8 key (m.bankAt 0) off) slot (regionAddr 2 off) := rfl

theorem exec_ascii8Win1Read (slot : SlotId) (off : BitVec 13) (s : State) :
    exec (.ascii8Win1Read slot off) s =
      s.winRow .ascii8 (fun m key => m.rom8 key (m.bankAt 1) off) slot (regionAddr 3 off) := rfl

theorem exec_ascii8Win2Read (slot : SlotId) (off : BitVec 13) (s : State) :
    exec (.ascii8Win2Read slot off) s =
      s.winRow .ascii8 (fun m key => m.rom8 key (m.bankAt 2) off) slot (regionAddr 4 off) := rfl

theorem exec_ascii8Win3Read (slot : SlotId) (off : BitVec 13) (s : State) :
    exec (.ascii8Win3Read slot off) s =
      s.winRow .ascii8 (fun m key => m.rom8 key (m.bankAt 3) off) slot (regionAddr 5 off) := rfl

/-! ## The read rule (44 R190) -/

/-- The ASCII8 read rule as numbers: every window, 0 included, shows the bank of its own register. -/
theorem readLoc_ascii8 {m : MapperState} (hv : m.variant = .ascii8) (k : EffSlot) (p : Page) (o : Off14) :
    m.readLoc k p o = romAt k m (m.bankAt ((p.toNat - 1) * 2 + o.toNat / 8192)) 8192 (o.toNat % 8192) := by
  simp only [MapperState.readLoc, hv, MapperState.ascii8Read, rom8_eq_romAt, bankOffset8_toNat, window8_eq]

/-- Settles O35: TRANSLATE is the read rule at the window of the address; each row has its window's register
written in its rule. -/
theorem ascii8ReadRule : Obligations.Ascii8ReadRule := by
  intro s slot m h
  refine ⟨fun p o hp => ?_, fun off => ⟨?_, ?_, ?_, ?_⟩⟩
  · rw [exec_translate_of_holds h hp, readLoc_ascii8 h.2]
  · rw [exec_ascii8Win0Read, winRow_of_holds h, rom8_eq_romAt]
  · rw [exec_ascii8Win1Read, winRow_of_holds h, rom8_eq_romAt]
  · rw [exec_ascii8Win2Read, winRow_of_holds h, rom8_eq_romAt]
  · rw [exec_ascii8Win3Read, winRow_of_holds h, rom8_eq_romAt]

end Sys2Proof.Machine

/-! The ASCII16 mapper (45_ascii16.md). -/

namespace Sys2Proof.Machine

/-! ## One equation per window row -/

theorem exec_ascii16Win0Read (slot : SlotId) (off : BitVec 14) (s : State) :
    exec (.ascii16Win0Read slot off) s =
      s.winRow .ascii16 (fun m key => m.rom16 key (m.bankAt 0) off) slot (pageAddr 1 off) := rfl

theorem exec_ascii16Win1Read (slot : SlotId) (off : BitVec 14) (s : State) :
    exec (.ascii16Win1Read slot off) s =
      s.winRow .ascii16 (fun m key => m.rom16 key (m.bankAt 1) off) slot (pageAddr 2 off) := rfl

/-! ## The read rule (45 R198) -/

/-- A byte of a 16 KB bank, in the terms of the statements (30 R86). -/
theorem rom16_eq_romAt (m : MapperState) (k : EffSlot) (bank : Nat) (off : Off14) :
    m.rom16 k bank off = romAt k m bank 16384 off.toNat := rfl

/-- The ASCII16 read rule as numbers: the window is the whole page, so the offset is not cut. -/
theorem readLoc_ascii16 {m : MapperState} (hv : m.variant = .ascii16) (k : EffSlot) (p : Page) (o : Off14) :
    m.readLoc k p o = romAt k m (m.bankAt (p.toNat - 1)) 16384 o.toNat := by
  simp only [MapperState.readLoc, hv, MapperState.ascii16Read, rom16_eq_romAt, window16]

/-- Settles O37: TRANSLATE is the read rule at the window of the page; each row has its window's register
written in its rule. -/
theorem ascii16ReadRule : Obligations.Ascii16ReadRule := by
  intro s slot m h
  refine ⟨fun p o hp => ?_, fun off => ⟨?_, ?_⟩⟩
  · rw [exec_translate_of_holds h hp, readLoc_ascii16 h.2]
  · rw [exec_ascii16Win0Read, winRow_of_holds h, rom16_eq_romAt]
  · rw [exec_ascii16Win1Read, winRow_of_holds h, rom16_eq_romAt]

end Sys2Proof.Machine

/-! Exceptions (60_exceptions.md). -/

namespace Sys2Proof.Machine

/-! ## The queue and the mode through the collaborators (20 R51) -/

@[simp] theorem memRead_pending (s : State) (loc : Loc) : (s.memRead loc).2.pending = s.pending := by
  rcases memRead_cases s loc with ⟨_, _, _, _, _, h⟩ | h <;> rw [h]

@[simp] theorem memRead_ctrlDecode (s : State) (loc : Loc) : (s.memRead loc).2.ctrlDecode = s.ctrlDecode := by
  rcases memRead_cases s loc with ⟨_, _, _, _, _, h⟩ | h <;> rw [h]

@[simp] theorem memWrite_pending (s : State) (loc : Loc) (v : Byte) : (s.memWrite loc v).pending = s.pending := by
  rcases memWrite_cases s loc v with h | h <;> rw [h]

@[simp] theorem memWrite_ctrlDecode (s : State) (loc : Loc) (v : Byte) :
    (s.memWrite loc v).ctrlDecode = s.ctrlDecode := by
  rcases memWrite_cases s loc v with h | h <;> rw [h]

@[simp] theorem forwardOutcome_pending (s : State) (o : WriteOutcome) :
    (s.forwardOutcome o).pending = s.pending := by
  cases o <;> simp [State.forwardOutcome]

@[simp] theorem forwardOutcome_ctrlDecode (s : State) (o : WriteOutcome) :
    (s.forwardOutcome o).ctrlDecode = s.ctrlDecode := by
  cases o <;> simp [State.forwardOutcome]

/-! ## Answers that never fail (60 R222) -/

/-- The answer `A` to an instruction run in `s` is a next state with the queue and the mode of `s`, and its
result is no ConfigError. -/
def State.Completes (s : State) (A : Answer) : Prop :=
  ∃ t : State, A = .next t ∧ t.pending = s.pending ∧ t.ctrlDecode = s.ctrlDecode ∧ ∀ r, t.result ≠ .configError r

/-- Transactions end in a commit or a finish, from `s` or from the state `u` that a collaborator made of it. -/
theorem commit_completes {s u : State} (b : Block) {r : Result} (hp : u.pending = s.pending)
    (hm : u.ctrlDecode = s.ctrlDecode) (hr : ∀ e, r ≠ .configError e) : s.Completes (u.commit b r) :=
  ⟨_, rfl, hp, hm, hr⟩

theorem finish_completes {s u : State} {r : Result} (hp : u.pending = s.pending)
    (hm : u.ctrlDecode = s.ctrlDecode) (hr : ∀ e, r ≠ .configError e) : s.Completes (u.finish r) :=
  ⟨_, rfl, hp, hm, hr⟩

theorem execWrite_completes (slot : SlotId) (a : Addr) (x : Byte) (s : State) :
    s.Completes (execWrite slot a x s) :=
  commit_completes _ rfl rfl (by simp)

theorem execTranslate_completes (slot : SlotId) (p : Page) (o : Off14) (s : State) :
    s.Completes (execTranslate slot p o s) :=
  finish_completes rfl rfl (by simp)

/-- A CTRL_WRITE row commits its rule's MapperState, or is the WRITE it decodes (log entry 11). -/
theorem ctrlRow_completes (s : State) (v : Mapper) (i : Nat) (rule : MapperState → MapperState) (slot : SlotId)
    (a : Addr) (x : Byte) : s.Completes (s.ctrlRow v i rule slot a x) := by
  simp only [State.ctrlRow]
  split
  · exact execWrite_completes slot a x s
  · split_ifs
    · exact commit_completes _ rfl rfl (by simp)
    · exact execWrite_completes slot a x s

/-- A WIN_READ row answers its rule's location, or is the TRANSLATE it decodes (log entry 11). -/
theorem winRow_completes (s : State) (v : Mapper) (rule : MapperState → EffSlot → Loc) (slot : SlotId)
    (a : Addr) : s.Completes (s.winRow v rule slot a) := by
  simp only [State.winRow]
  split
  · exact execTranslate_completes slot _ _ s
  · split_ifs
    · exact finish_completes rfl rfl (by simp)
    · exact execTranslate_completes slot _ _ s

/-- The value 0x3F is no SCC.SEL2 (43 R174), and the row is then the WRITE. -/
theorem execSccSel2_completes (slot : SlotId) (off : BitVec 11) (x : Byte) (s : State) :
    s.Completes (execSccSel2 slot off x s) := by
  unfold execSccSel2
  split_ifs
  · exact execWrite_completes slot _ x s
  · exact ctrlRow_completes ..

theorem execSccRegionRead_completes (slot : SlotId) (off : BitVec 10) (s : State) :
    s.Completes (execSccRegionRead slot off s) := by
  simp only [execSccRegionRead]
  split
  · exact execTranslate_completes slot _ _ s
  · split_ifs
    · exact finish_completes rfl rfl (by simp)
    · exact execTranslate_completes slot _ _ s

theorem execSccRegionWrite_completes (slot : SlotId) (off : BitVec 10) (x : Byte) (s : State) :
    s.Completes (execSccRegionWrite slot off x s) := by
  simp only [execSccRegionWrite]
  split
  · exact execWrite_completes slot _ x s
  · split_ifs
    · exact finish_completes (memWrite_pending ..) (memWrite_ctrlDecode ..) (by simp)
    · exact execWrite_completes slot _ x s

/-- Every instruction but REGISTER completes without an error (60 R222). -/
theorem exec_completes {i : Instr} (hi : ∀ slot v n, i ≠ .register slot v n) (s : State) :
    s.Completes (exec i s) := by
  cases i with
  | register slot v n => exact absurd rfl (hi slot v n)
  | resolve | isExp => exact finish_completes rfl rfl (by simp)
  | select | unregister | reset => exact commit_completes _ rfl rfl (by simp)
  | write slot a x => exact execWrite_completes slot a x s
  | translate slot p o => exact execTranslate_completes slot p o s
  | busRead => exact finish_completes (memRead_pending ..) (memRead_ctrlDecode ..) (by simp)
  | busWrite => exact commit_completes _ (forwardOutcome_pending ..) (forwardOutcome_ctrlDecode ..) (by simp)
  | sccSel2 slot off x => exact execSccSel2_completes slot off x s
  | sccRegionRead slot off => exact execSccRegionRead_completes slot off s
  | sccRegionWrite slot off x => exact execSccRegionWrite_completes slot off x s
  | konamiSel1 | konamiSel2 | konamiSel3 | sccSel0 | sccSel1 | sccSccOn | sccSel3
  | ascii8Sel0 | ascii8Sel1 | ascii8Sel2 | ascii8Sel3 | ascii16Sel0 | ascii16Sel1 =>
    exact ctrlRow_completes ..
  | konamiWin0Read | konamiWin1Read | konamiWin2Read | konamiWin3Read
  | sccWin0Read | sccWin1Read | sccWin2Read | sccWin3Read
  | ascii8Win0Read | ascii8Win1Read | ascii8Win2Read | ascii8Win3Read
  | ascii16Win0Read | ascii16Win1Read =>
    unfold exec
    exact winRow_completes ..

/-- REGISTER completes in every state, and one that reports a reason leaves S (41 R143). -/
theorem execRegister_completes (slot : SlotId) (v : Option Variant) (n : Nat) (s : State) :
    ∃ t : State, execRegister slot v n s = .next t ∧ t.pending = s.pending ∧ t.ctrlDecode = s.ctrlDecode ∧
      ∀ r, t.result = .configError r → t.blk = s.blk := by
  rcases execRegister_cases slot v n s with ⟨_, h⟩ | ⟨w, _, _, _, h⟩
  · exact ⟨_, h, rfl, rfl, fun _ _ => rfl⟩
  · exact ⟨_, h, rfl, rfl, by simp⟩

/-- Settles O46: REGISTER is the one instruction with an error branch; every other answer reports none. -/
theorem everyInstructionCompletes : Obligations.EveryInstructionCompletes := by
  intro i s
  by_cases hi : ∃ slot v n, i = .register slot v n
  · obtain ⟨slot, v, n, rfl⟩ := hi
    obtain ⟨t, ht, hpending, hmode, hblk⟩ := execRegister_completes slot v n s
    exact ⟨t, ht, hpending, hmode, fun r hr => ⟨⟨slot, v, n, rfl⟩, hblk r hr⟩⟩
  · obtain ⟨t, ht, hpending, hmode, hresult⟩ := exec_completes (fun slot v n e => hi ⟨slot, v, n, e⟩) s
    exact ⟨t, ht, hpending, hmode, fun r hr => absurd hr (hresult r)⟩

end Sys2Proof.Machine

/-! Records and their instructions (30_encoding.md sections 4 to 6). -/

namespace Sys2Proof

open Machine

/-! ## The low bits of an address -/

@[simp] theorem extract_regionAddr (r : BitVec 3) (off : BitVec 13) : (regionAddr r off).extractLsb' 0 13 = off := by
  apply BitVec.eq_of_toNat_eq
  have := off.isLt
  rw [extract_toNat, regionAddr_toNat]
  omega

@[simp] theorem extract_blockAddr (r : BitVec 5) (off : BitVec 11) : (blockAddr r off).extractLsb' 0 11 = off := by
  apply BitVec.eq_of_toNat_eq
  have := off.isLt
  rw [extract_toNat, blockAddr_toNat]
  omega

@[simp] theorem extract_pageAddr (p : Page) (off : Off14) : (pageAddr p off).extractLsb' 0 14 = off :=
  offsetOf_pageAddr p off

@[simp] theorem extract_sccRegionAddr (off : BitVec 10) : (sccRegionAddr off).extractLsb' 0 10 = off := by
  apply BitVec.eq_of_toNat_eq
  have := off.isLt
  rw [extract_toNat, sccRegionAddr_toNat]
  omega

/-! ## The high bits of an address -/

@[simp] theorem regionAddr_div (r : BitVec 3) (off : BitVec 13) : (regionAddr r off).toNat / 8192 = r.toNat := by
  have := off.isLt
  rw [regionAddr_toNat]
  omega

@[simp] theorem blockAddr_div (r : BitVec 5) (off : BitVec 11) : (blockAddr r off).toNat / 2048 = r.toNat := by
  have := off.isLt
  rw [blockAddr_toNat]
  omega

theorem regionOf_eq (a : Addr) : regionOf a = a.toNat / 8192 := by
  have := a.isLt
  rw [regionOf, extract_toNat]
  omega

@[simp] theorem regionOf_regionAddr (r : BitVec 3) (off : BitVec 13) : regionOf (regionAddr r off) = r.toNat := by
  rw [regionOf_eq, regionAddr_div]

/-- A page is two regions (30 R84). -/
theorem regionOf_pageAddr (p : Page) (off : Off14) :
    regionOf (pageAddr p off) = 2 * p.toNat ∨ regionOf (pageAddr p off) = 2 * p.toNat + 1 := by
  have := off.isLt
  rw [regionOf_eq, pageAddr_toNat]
  omega

theorem sccRegionAddr_masked (off : BitVec 10) : sccRegionAddr off &&& 0xFC00#16 = 0x9800#16 := by
  apply BitVec.eq_of_toNat_eq
  have := off.isLt
  rw [and_regionMask1K, sccRegionAddr_toNat, BitVec.toNat_ofNat]
  omega

/-! ## One lemma per record format -/

/-- The entry that a control-write record names is the one that decodes the address under RANGE (30 R89). -/
theorem ctrlEntryOf_variant {m : Mapper} {a : Addr} {reg : Nat} (h : decodeCtrl .range m a = some reg) :
    ∃ e, ctrlEntryOf (Variant.toCode (some m.variant)) a = some e ∧ e.mapper = m ∧ e.reg = reg := by
  obtain ⟨e, he, hreg⟩ := Option.map_eq_some_iff.mp h
  have hcond := List.find?_some he
  refine ⟨e, ?_, ?_, hreg⟩
  · simpa [ctrlEntryOf, toCode_variant_ne_zero] using he
  · simpa using (Bool.and_eq_true_iff.mp hcond).1

/-- The row of a control-write record is that of the register its address decodes to under RANGE. -/
theorem decode_ctrlRecord {m : Mapper} {a : Addr} {slot : SlotId} {x : Byte} {i : Instr}
    (h : ((decodeCtrl .range m a).bind fun reg => ctrlRowInstr m reg slot a x) = some i) :
    decode (ctrlRecord m a slot x) = .ok i := by
  obtain ⟨reg, hd, hi⟩ := Option.bind_eq_some_iff.mp h
  obtain ⟨e, he, rfl, rfl⟩ := ctrlEntryOf_variant hd
  simp [decode, ctrlRecord, decodeCtrlWrite, he, hi]

theorem decode_winRecord {m : Mapper} {a : Addr} {slot : SlotId} {i : Instr}
    (hi : winRowInstr m (regionOf a) slot a = some i) : decode (winRecord m a slot) = .ok i := by
  simp [decode, winRecord, decodeWinRead, winMapperOf, toCode_variant_ne_zero, hi]

/-- A 16 KB window row is read at either region of its page (30 R85). -/
theorem decode_winRecord_ascii16 {p : Page} {off : Off14} {slot : SlotId} {i : Instr}
    (hlo : winRowInstr .ascii16 (2 * p.toNat) slot (pageAddr p off) = some i)
    (hhi : winRowInstr .ascii16 (2 * p.toNat + 1) slot (pageAddr p off) = some i) :
    decode (winRecord .ascii16 (pageAddr p off) slot) = .ok i := by
  rcases regionOf_pageAddr p off with h | h
  · exact decode_winRecord (by rw [h, hlo])
  · exact decode_winRecord (by rw [h, hhi])

/-- Settles O1: each format's lemma at the address of the row; SCC.SEL2's value condition is what tells its
record from SCC.SCCON's. -/
theorem decodeReadsBackEveryEncoding : Obligations.DecodeReadsBackEveryEncoding := by
  intro i hwf
  cases i with
  | resolve | select | isExp | register | unregister | write | translate | busRead | busWrite | reset =>
    simp [decode, encode, txnRecord, decodeTxn]
  | sccRegionRead | sccRegionWrite => simp [decode, encode, decodeSccAccess, sccRegionAddr_masked]
  | sccSel2 slot off x =>
    have hx : x ≠ 0x3F#8 := of_decide_eq_true hwf
    exact decode_ctrlRecord (by simp [decodeCtrl_scc_range, ctrlRowInstr, hx])
  | konamiSel1 | konamiSel2 | konamiSel3 =>
    exact decode_ctrlRecord (by simp [decodeCtrl_konami_range, ctrlRowInstr])
  | sccSel0 | sccSel1 | sccSccOn | sccSel3 =>
    exact decode_ctrlRecord (by simp [decodeCtrl_scc_range, ctrlRowInstr])
  | ascii8Sel0 | ascii8Sel1 | ascii8Sel2 | ascii8Sel3 =>
    exact decode_ctrlRecord (by simp [decodeCtrl_ascii8_range, ctrlRowInstr])
  | ascii16Sel0 | ascii16Sel1 =>
    exact decode_ctrlRecord (by simp [decodeCtrl_ascii16_range, ctrlRowInstr])
  | konamiWin0Read | konamiWin1Read | konamiWin2Read | konamiWin3Read
  | sccWin0Read | sccWin1Read | sccWin2Read | sccWin3Read
  | ascii8Win0Read | ascii8Win1Read | ascii8Win2Read | ascii8Win3Read =>
    exact decode_winRecord (by simp [winRowInstr])
  | ascii16Win0Read | ascii16Win1Read =>
    exact decode_winRecord_ascii16 (by simp [winRowInstr]) (by simp [winRowInstr])

/-- Settles O2: the words are evaluated. -/
theorem specWordsDecode : Obligations.SpecWordsDecode := by
  unfold Obligations.SpecWordsDecode
  decide

/-! ## Refusals (30 R92) -/

/-- The kind of a transaction is the low four bits of its word, and 10 to 15 are no transaction. -/
theorem decodeTxn_unusedKind {w : Nat} (h : 10 ≤ w % 16) : decodeTxn w = .error (.unusedKind (w % 16)) := by
  have hkind : (takeBits 4 w).1.toNat = w % 16 := BitVec.toNat_ofNat w 4
  have hlt : w % 16 < 16 := Nat.mod_lt _ (by decide)
  generalize w % 16 = k at *
  simp only [decodeTxn, hkind]
  interval_cases k <;> rfl

/-- Settles O3, by `decodeTxn_unusedKind` at the record that the step takes. -/
theorem unusedKindsAreRefused : Obligations.UnusedKindsAreRefused := by
  intro s w rest hpending hkind
  simp [step, State.fetch, hpending, decode, decodeTxn_unusedKind hkind]

/-! ## SLOTID8 (30 R82, R83) -/

/-- The secondary index of a SlotId that is not expanded is ignored (10 R23). -/
theorem eff_congr (b : Block) {x y : SlotId} (he : x.expanded = y.expanded) (hp : x.primary = y.primary)
    (hs : x.expanded = true → x.secondary = y.secondary) : b.eff x = b.eff y := by
  cases hx : x.expanded with
  | false => simp [Block.eff, ← he, hp, hx]
  | true => simp [Block.eff, ← he, hp, hs hx]

/-- Settles O4: E, PP and, where E is 1, SS are the fields that `eff` reads. -/
theorem slotByteLayout : Obligations.SlotByteLayout := by
  refine ⟨fun b x y he hp hs => eff_congr b he hp hs, fun x => ⟨rfl, rfl, rfl⟩, ?_, ?_⟩
  · decide
  · decide

/-! ## Addresses and the decode table (30 R80 to R85, R89) -/

/-- Settles O6: each field as a number. -/
theorem cartridgeAddressIsCutIntoWindows : Obligations.CartridgeAddressIsCutIntoWindows := by
  intro a hlo hhi
  refine ⟨pageAddr_pageOf a, ?_, ?_, ?_⟩
  · rw [window8_eq, pageOf_toNat, offsetOf_toNat]
    omega
  · rw [bankOffset8_toNat, offsetOf_toNat]
    omega
  · rw [window16, pageOf_toNat]

/-- Entries of one variant have one mask, and different bases. -/
theorem ctrlTable_of_mapper_eq : ∀ e ∈ ctrlTable, ∀ f ∈ ctrlTable, e.mapper = f.mapper →
    e.mask = f.mask ∧ (e.base = f.base → e = f) := by
  decide

/-- So no two entries of one variant cover one address. -/
theorem covers_unique {e f : CtrlEntry} (he : e ∈ ctrlTable) (hf : f ∈ ctrlTable) (hv : e.mapper = f.mapper)
    {mode : CtrlDecode} {a : Addr} (hea : e.covers mode a = true) (hfa : f.covers mode a = true) : e = f := by
  obtain ⟨hmask, hbase⟩ := ctrlTable_of_mapper_eq e he f hf hv
  apply hbase
  cases mode with
  | exact => exact (eq_of_beq hea).symm.trans (eq_of_beq hfa)
  | range =>
    have ha : a &&& e.mask = e.base := eq_of_beq hea
    have hb : a &&& f.mask = f.base := eq_of_beq hfa
    rw [← ha, ← hb, hmask]

/-- The first entry that covers an address is the only one. -/
theorem decodeCtrl_eq_some_iff (mode : CtrlDecode) (v : Mapper) (a : Addr) (i : Nat) :
    decodeCtrl mode v a = some i ↔ ∃ e ∈ ctrlTable, e.mapper = v ∧ e.reg = i ∧ e.covers mode a = true := by
  constructor
  · intro h
    obtain ⟨e, he, hreg⟩ := Option.map_eq_some_iff.mp h
    have hcond := List.find?_some he
    obtain ⟨hv, ha⟩ := Bool.and_eq_true_iff.mp hcond
    exact ⟨e, List.mem_of_find?_eq_some he, eq_of_beq hv, hreg, ha⟩
  · rintro ⟨e, he, rfl, rfl, ha⟩
    cases hf : ctrlTable.find? fun f => f.mapper == e.mapper && f.covers mode a with
    | none => simpa [ha] using List.find?_eq_none.mp hf e he
    | some f =>
      have hcond := List.find?_some hf
      obtain ⟨hv, hfa⟩ := Bool.and_eq_true_iff.mp hcond
      have hef : f = e := covers_unique (List.mem_of_find?_eq_some hf) he (eq_of_beq hv) hfa ha
      simp [decodeCtrl, hf, hef]

/-- The SCC region holds no control address of its variant. -/
theorem decodeCtrl_scc_region (mode : CtrlDecode) {a : Addr} (h : 0x9800 ≤ a.toNat ∧ a.toNat ≤ 0x9BFF) :
    decodeCtrl mode .konamiSCC a = none := by
  obtain ⟨hlo, hhi⟩ := h
  cases mode with
  | exact =>
    rw [decodeCtrl_scc_exact, if_neg (by omega), if_neg (by omega), if_neg (by omega), if_neg (by omega)]
  | range =>
    have hblock : a.toNat / 2048 = 19 := by omega
    rw [decodeCtrl_scc_range, hblock]
    rfl

/-- Settles O7: `covers` in each mode is the match that the statement writes out. -/
theorem controlDecodeIsItsTable : Obligations.ControlDecodeIsItsTable := by
  refine ⟨fun v a i => ?_, fun v a i => ?_, fun mode a i hd hregion => ?_⟩
  · simp [decodeCtrl_eq_some_iff, CtrlEntry.covers]
  · simp [decodeCtrl_eq_some_iff, CtrlEntry.covers]
  · simp [decodeCtrl_scc_region mode hregion] at hd

end Sys2Proof

/-! The tables of S, reset and the step (10_state.md, 40_slot_resolver.md, 70_reset_and_hazards.md). -/

namespace Sys2Proof.Machine

/-! ## Slot identifiers and the MapperTable (10 R23, R27) -/

theorem eff_of_expanded {b : Block} {x : SlotId} (hx : x.expanded = true) (h : b.isExpanded x.primary = true) :
    b.eff x = ⟨x.primary, some x.secondary⟩ := by
  have hexp : b.exp.getLsbD x.primary.toNat = true := h
  simp [Block.eff, hx, hexp]

theorem eff_of_expanded_eq_false {b : Block} {x : SlotId} (hx : x.expanded = false) :
    b.eff x = ⟨x.primary, none⟩ := by
  simp [Block.eff, hx]

theorem sameSlot_iff (b : Block) (x y : SlotId) : b.sameSlot x y = true ↔ b.eff x = b.eff y :=
  decide_eq_true_iff

/-- Settles O8: the secondary index counts only where the flag and the table agree on it. -/
theorem effectiveSlotNeedsFlagAndTable : Obligations.EffectiveSlotNeedsFlagAndTable := by
  intro b x y
  refine ⟨eff_of_expanded, ?_, sameSlot_iff b x y⟩
  rintro (hx | h)
  · exact eff_of_expanded_eq_false hx
  · exact eff_of_isExpanded_eq_false h

/-- Settles O9, by the read-after-write laws of `Block.setMapper`, which rest on `slotIndex_injective`. -/
theorem mapperTableKeepsKeysApart : Obligations.MapperTableKeepsKeysApart :=
  fun b k m => ⟨mapper?_setMapper_same b k m, fun _ hl => mapper?_setMapper_ne b m hl⟩

/-- Writing what a key already holds changes nothing. -/
theorem setMapper_mapper? (b : Block) (k : EffSlot) : b.setMapper k (b.mapper? k) = b := by
  simp [Block.setMapper, Block.mapper?, Vector.get_eq_getElem]

/-! ## SELECT (40 R114, R115) -/

@[simp] theorem select_select (b : Block) (p : Page) (x y : SlotId) : (b.select p x).select p y = b.select p y := by
  simp [Block.select]

theorem pageOf_eq_iff (a : Addr) (p : Page) : pageOf a = p ↔ a.toNat >>> 14 = p.toNat := by
  rw [← BitVec.toNat_inj, pageOf_toNat, Nat.shiftRight_eq_div_pow]

/-- The slot that an address resolves to after SELECT: the one selected on its page, and off the page the
one before. -/
theorem eff_assigned_select_same (b : Block) (p : Page) (x : SlotId) :
    (b.select p x).eff ((b.select p x).assigned p) = b.eff x := by
  rw [assigned_select_same, select_eff]

theorem eff_assigned_select_ne (b : Block) {p q : Page} (x : SlotId) (h : q ≠ p) :
    (b.select p x).eff ((b.select p x).assigned q) = b.eff (b.assigned q) := by
  rw [assigned_select_ne b x h, select_eff]

/-- Settles O14: a second SELECT stores over the first; RESOLVE reads a page's SlotId through `eff` only. -/
theorem selectIsIdempotent : Obligations.SelectIsIdempotent := by
  refine ⟨fun s p x => ⟨_, exec_select p x s, ?_⟩, fun s p x y a hsame => ?_⟩
  · rw [exec_select, select_select]
  · have heff := (sameSlot_iff s.blk x y).mp hsame
    refine ⟨_, _, _, exec_select p x s, exec_select p y s, exec_resolve a _, ?_⟩
    rw [exec_resolve]
    by_cases hp : pageOf a = p
    · rw [hp, eff_assigned_select_same, eff_assigned_select_same, heff]
    · rw [eff_assigned_select_ne _ _ hp, eff_assigned_select_ne _ _ hp]

/-- Settles O15: the page of the address decides which of the two read-after-write laws applies. -/
theorem selectIsPageGranular : Obligations.SelectIsPageGranular := by
  intro s p x a
  refine ⟨_, exec_select p x s, fun hin => ?_, fun hout => ⟨_, exec_resolve a s, ?_⟩⟩
  · rw [exec_resolve, (pageOf_eq_iff a p).mpr hin, eff_assigned_select_same]
  · have hp : pageOf a ≠ p := fun h => hout ((pageOf_eq_iff a p).mp h)
    rw [exec_resolve, eff_assigned_select_ne _ _ hp]

/-! ## RESET (10 R35, 70 R240) -/

theorem exec_reset (e : BitVec 4) (s : State) :
    exec (.reset e) s = .next { s with blk := Block.afterReset e, result := .nothing } := rfl

/-- An empty MapperTable meets the invariant. -/
theorem afterReset_inv (e : BitVec 4) : (Block.afterReset e).Inv := by
  intro k m h
  simp at h

/-- Settles O42: the S that RESET commits is `Block.afterReset`. -/
theorem resetWritesAllOfBlock : Obligations.ResetWritesAllOfBlock :=
  fun s e => ⟨_, exec_reset e s, rfl, afterReset_assigned e, afterReset_mapper? e⟩

/-- Settles O43: State.reset holds `Block.afterReset 0`. -/
theorem resetStateMeetsInvariant : Obligations.ResetStateMeetsInvariant :=
  ⟨afterReset_inv 0, afterReset_assigned 0, rfl, afterReset_mapper? 0, rfl⟩

/-! ## The step (00 R2, 10 R21) -/

theorem step_of_decode {s : State} {r : Record} {rest : List Record} {i : Instr} (hp : s.pending = r :: rest)
    (hd : decode r = .ok i) : step s = exec i { s with pending := rest } := by
  simp [step, State.fetch, hp, hd]

/-- A step that answers a next state has executed an instruction, on a state with the S of the first. -/
theorem exists_exec_of_step {s t : State} (h : step s = .next t) :
    ∃ (i : Instr) (u : State), u.blk = s.blk ∧ exec i u = .next t := by
  cases hp : s.pending with
  | nil => simp [step, State.fetch, hp] at h
  | cons r rest =>
    cases hd : decode r with
    | error e => simp [step, State.fetch, hp, hd] at h
    | ok i =>
      exact ⟨i, { s with pending := rest }, rfl, (step_of_decode hp hd).symm.trans h⟩

/-- Settles O45: `fetch` takes the oldest record, and there is none to take of an empty queue. -/
theorem stepRunsDecodedInstruction : Obligations.StepRunsDecodedInstruction :=
  ⟨fun _ _ _ _ => step_of_decode, fun s hp => by simp [step, State.fetch, hp]⟩

/-! ## REGISTER and UNREGISTER (41 R131, R132, R143) -/

/-! The four answers of REGISTER, in the order of its checks (60 R221). -/

theorem exec_register_unsupported (slot : SlotId) {v : Option Variant} (hv : v.bind Variant.mapper? = none) (n : Nat)
    (s : State) :
    exec (.register slot v n) s = .next { s with result := .configError .unsupportedVariant } := by
  simp only [exec, execRegister, hv]
  rfl

theorem exec_register_zero (slot : SlotId) {v : Option Variant} {w : Mapper} (hv : v.bind Variant.mapper? = some w)
    (s : State) : exec (.register slot v 0) s = .next { s with result := .configError .zeroSize } := by
  simp only [exec, execRegister, hv]
  rfl

theorem exec_register_notMultiple (slot : SlotId) {v : Option Variant} {w : Mapper}
    (hv : v.bind Variant.mapper? = some w) {n : Nat} (h0 : n ≠ 0) (hmod : n % bankSizeOf w ≠ 0) (s : State) :
    exec (.register slot v n) s = .next { s with result := .configError .notMultiple } := by
  simp only [exec, execRegister, hv]
  rw [if_neg h0, if_pos hmod]
  rfl

theorem exec_register_ok (slot : SlotId) {v : Option Variant} {w : Mapper} (hv : v.bind Variant.mapper? = some w)
    {n : Nat} (h0 : n ≠ 0) (hmod : n % bankSizeOf w = 0) (s : State) :
    exec (.register slot v n) s = .next { s.newImage (s.blk.eff slot) with
      blk := s.blk.setMapper (s.blk.eff slot) (some (MapperState.fresh w n))
      result := .ok } := by
  simp only [exec, execRegister, hv]
  rw [if_neg h0, if_neg (not_not.mpr hmod)]
  rfl

theorem bind_mapper?_variant (v : Mapper) : (some v.variant).bind Variant.mapper? = some v :=
  mapper?_variant v

theorem bankSizeOf_eq_ite (v : Mapper) : bankSizeOf v = if v = .ascii16 then 16384 else 8192 := by
  cases v <;> rfl

theorem windowsOf_eq_ite (v : Mapper) : windowsOf v = if v = .ascii16 then 2 else 4 := by
  cases v <;> rfl

theorem initScc_eq_ite (v : Mapper) : initScc v = if v = .konamiSCC then some false else none := by
  cases v <;> rfl

theorem initBanks_length (v : Mapper) (c : Nat) : (initBanks v c).length = windowsOf v := by
  cases v <;> rfl

/-- Every bank register at registration is INIT_BANKS, but Konami's register 0 (10 R36). -/
theorem initBanks_getD {v : Mapper} {i : Nat} (c : Nat) (hi : i < windowsOf v) :
    (initBanks v c).getD i 0 = if v = .konami ∧ i = 0 then 0 else initBank v i c := by
  cases v <;> simp only [windowsOf] at hi <;> interval_cases i <;> rfl

/-- Settles O16: the MapperState is `MapperState.fresh`. -/
theorem registerCreatesMapperState : Obligations.RegisterCreatesMapperState := by
  rintro s slot v n _ rfl h0 hmod
  rw [← bankSizeOf_eq_ite] at hmod ⊢
  rw [← windowsOf_eq_ite, ← initScc_eq_ite]
  have hexec := exec_register_ok slot (bind_mapper?_variant v) h0.ne' hmod s
  have hlen : (MapperState.fresh v n).bank.length = windowsOf v := initBanks_length v _
  have hbank : ∀ i, i < (MapperState.fresh v n).bank.length → (MapperState.fresh v n).bankAt i =
      if v = .konami ∧ i = 0 then 0 else initBank v i (n / bankSizeOf v) :=
    fun i hi => initBanks_getD _ (hlen ▸ hi)
  exact ⟨MapperState.fresh v n, hexec, rfl, rfl, rfl, rfl, hlen, hbank, rfl⟩

/-- Settles O17: the three checks in the order of 60 R221. -/
theorem registerReportsFirstReason : Obligations.RegisterReportsFirstReason := by
  intro s slot n
  refine ⟨fun v hv => exec_register_unsupported slot ?_ n s, ?_, fun v hn hmod => ?_⟩
  · revert v
    decide
  · rintro v rfl
    exact exec_register_zero slot (bind_mapper?_variant v) s
  · rw [← bankSizeOf_eq_ite] at hmod
    exact exec_register_notMultiple slot (bind_mapper?_variant v) hn hmod s

theorem exec_unregister (slot : SlotId) (s : State) :
    exec (.unregister slot) s =
      .next { s with blk := s.blk.setMapper (s.blk.eff slot) none, result := .nothing } := rfl

/-- Settles O18: the key is written `none`, which changes nothing where it held that already. -/
theorem unregisterRemovesTheEntry : Obligations.UnregisterRemovesTheEntry := by
  intro s slot
  refine ⟨_, exec_unregister slot s, mapper?_setMapper_same .., fun k hk => mapper?_setMapper_ne _ _ hk, rfl, rfl,
    fun hnone => ?_⟩
  have hsame := setMapper_mapper? s.blk (s.blk.eff slot)
  rwa [hnone] at hsame

/-- REGISTER's answer depends on S through the key of its slot only. -/
theorem exec_register_cases (slot : SlotId) (v : Option Variant) (n : Nat) :
    (∃ r, ∀ s, exec (.register slot v n) s = .next { s with result := .configError r }) ∨
    ∃ m, ∀ s : State, exec (.register slot v n) s = .next { s.newImage (s.blk.eff slot) with
      blk := s.blk.setMapper (s.blk.eff slot) (some m)
      result := .ok } := by
  cases hv : v.bind Variant.mapper? with
  | none => exact .inl ⟨_, exec_register_unsupported slot hv n⟩
  | some w =>
    by_cases h0 : n = 0
    · subst h0
      exact .inl ⟨_, exec_register_zero slot hv⟩
    by_cases hmod : n % bankSizeOf w = 0
    · exact .inr ⟨_, exec_register_ok slot hv h0 hmod⟩
    · exact .inl ⟨_, exec_register_notMultiple slot hv h0 hmod⟩

/-- The two instructions write different tables of S. -/
theorem setMapper_select (b : Block) (k : EffSlot) (m : Option MapperState) (p : Page) (x : SlotId) :
    (b.select p x).setMapper k m = (b.setMapper k m).select p x := rfl

/-- Settles O51: SELECT leaves the key of the slot and the MapperTable, REGISTER leaves the pages. -/
theorem selectAndRegisterCommute : Obligations.SelectAndRegisterCommute := by
  intro s p x slot v n
  rcases exec_register_cases slot v n with ⟨r, h⟩ | ⟨m, h⟩
  · exact ⟨_, _, _, _, exec_select p x s, h _, h s, exec_select p x _, rfl, rfl, rfl, rfl, rfl⟩
  · exact ⟨_, _, _, _, exec_select p x s, h _, h s, exec_select p x _, setMapper_select .., rfl, rfl, rfl, rfl⟩

/-- Settles O52: REGISTER writes the same MapperState at the same key. -/
theorem registerIsIdempotentOnBlock : Obligations.RegisterIsIdempotentOnBlock := by
  intro s slot v n
  rcases exec_register_cases slot v n with ⟨r, h⟩ | ⟨m, h⟩
  · exact ⟨_, _, h s, h _, rfl, rfl⟩
  · exact ⟨_, _, h s, h _, setMapper_setMapper .., rfl⟩

end Sys2Proof.Machine

/-! Writes, reads and the rows that decode them (41_mapper_engine.md). -/

namespace Sys2Proof.Machine

/-! ## WRITE and TRANSLATE as states -/

theorem exec_write (slot : SlotId) (a : Addr) (x : Byte) (s : State) :
    exec (.write slot a x) s = .next { s with
      blk := (s.blk.onWrite s.ctrlDecode (s.blk.eff slot) a x).1
      result := .written (s.blk.onWrite s.ctrlDecode (s.blk.eff slot) a x).2 } := rfl

/-- A WRITE from what `on_write` gives. -/
theorem exec_write_of_onWrite {s : State} {slot : SlotId} {a : Addr} {x : Byte} {b : Block} {out : WriteOutcome}
    (h : s.blk.onWrite s.ctrlDecode (s.blk.eff slot) a x = (b, out)) :
    exec (.write slot a x) s = .next { s with blk := b, result := .written out } := by
  rw [exec_write, h]

theorem exec_translate (slot : SlotId) (p : Page) (o : Off14) (s : State) :
    exec (.translate slot p o) s = .next (s.locating (s.blk.translate (s.blk.eff slot) p o)) := rfl

/-! ## The cases of `on_write` (41 R133) -/

theorem onWrite_none {b : Block} {k : EffSlot} (h : b.mapper? k = none) (mode : CtrlDecode) (a : Addr) (x : Byte) :
    b.onWrite mode k a x = (b, .forward (.plain k (pageOf a) (offsetOf a)) x) := by
  simp [Block.onWrite, h]

theorem onWrite_register {b : Block} {mode : CtrlDecode} {k : EffSlot} {m : MapperState} {a : Addr} {i : Nat}
    (h : b.mapper? k = some m) (hd : decodeCtrl mode m.variant a = some i) (x : Byte) :
    b.onWrite mode k a x = (b.setMapper k (some (m.writeRegister i x)), .consumed i) := by
  simp [Block.onWrite, h, hd]

theorem onWrite_discarded {b : Block} {mode : CtrlDecode} {k : EffSlot} {m : MapperState} {a : Addr}
    (h : b.mapper? k = some m) (hd : decodeCtrl mode m.variant a = none)
    (hr : (m.redirects && inSccRegion a) = false) (x : Byte) :
    b.onWrite mode k a x = (b, .discarded (b.translate k (pageOf a) (offsetOf a))) := by
  simp [Block.onWrite, h, hd, hr]

theorem redirects_iff (m : MapperState) : m.redirects = true ↔ m.variant = .konamiSCC ∧ m.scc = some true := by
  simp [MapperState.redirects]

/-- A write to the active SCC region: it is no control address, so the redirect decides (43 R177). -/
theorem onWrite_redirect {b : Block} {k : EffSlot} {m : MapperState} {a : Addr} {off : BitVec 10}
    (h : b.mapper? k = some m) (hr : m.redirects = true) (ha : a.toNat = 0x9800 + off.toNat) (mode : CtrlDecode)
    (x : Byte) : b.onWrite mode k a x = (b, .forward (.scc k off) x) := by
  have hregion : 0x9800 ≤ a.toNat ∧ a.toNat ≤ 0x9BFF := by omega
  have hd : decodeCtrl mode m.variant a = none := by
    rw [((redirects_iff m).mp hr).1]
    exact decodeCtrl_scc_region mode hregion
  simp [Block.onWrite, h, hd, hr, (inSccRegion_iff a).mpr hregion, sccOffset_of_toNat ha]

/-! ## The read rule of every variant at once (41 R137) -/

/-- The bank that a window shows: its register, but 0 in Konami window 0 (42 R165). -/
def MapperState.shownBank (m : MapperState) (w : Nat) : Nat :=
  if m.variant = .konami ∧ w = 0 then 0 else m.bankAt w

/-- The reads that the SCC rule redirects (43 R176). -/
def MapperState.redirectsRead (m : MapperState) (p : Page) (o : Off14) : Prop :=
  m.variant = .konamiSCC ∧ m.scc = some true ∧ windowAt .konamiSCC p o = 2 ∧
    0x1800 ≤ o.toNat ∧ o.toNat ≤ 0x1BFF

/-- Any other read gives a byte of the bank that its window shows. -/
theorem readLoc_of_not_redirectsRead {m : MapperState} {p : Page} {o : Off14} (h : ¬ m.redirectsRead p o)
    (k : EffSlot) :
    m.readLoc k p o = romAt k m (m.shownBank (windowAt m.variant p o)) (bankSizeOf m.variant)
      (bankOffsetAt m.variant o) := by
  cases hv : m.variant with
  | konami => rw [readLoc_konami hv, window8_eq]; simp [MapperState.shownBank, hv, windowAt, bankSizeOf, bankOffsetAt]
  | konamiSCC =>
    have hrom : ¬ (window8 p o = 2 ∧ m.scc = some true ∧ 0x1800 ≤ o.toNat ∧ o.toNat ≤ 0x1BFF) := by
      rintro ⟨hw, hscc, ho⟩
      exact h ⟨hv, hscc, (window8_eq p o).symm.trans hw, ho⟩
    rw [readLoc_scc_rom hv k hrom, window8_eq]
    simp [MapperState.shownBank, hv, windowAt, bankSizeOf, bankOffsetAt]
  | ascii8 => rw [readLoc_ascii8 hv]; simp [MapperState.shownBank, hv, windowAt, bankSizeOf, bankOffsetAt]
  | ascii16 => rw [readLoc_ascii16 hv]; simp [MapperState.shownBank, hv, windowAt, bankSizeOf, bankOffsetAt]

/-! ## Addresses of the rows that read -/

theorem append13_toNat (h : BitVec 1) (off : BitVec 13) :
    (h ++ off : Off14).toNat = h.toNat * 8192 + off.toNat := by
  rw [BitVec.toNat_append, ← Nat.shiftLeft_add_eq_or_of_lt off.isLt, Nat.shiftLeft_eq]

theorem append10_toNat (off : BitVec 10) : (0b0110#4 ++ off : Off14).toNat = 0x1800 + off.toNat := by
  rw [BitVec.toNat_append, ← Nat.shiftLeft_add_eq_or_of_lt off.isLt, Nat.shiftLeft_eq]
  rfl

/-- A region is a half of its page (30 R84). -/
theorem regionAddr_eq_pageAddr {r : BitVec 3} {p : Page} {h : BitVec 1} (hr : r.toNat = 2 * p.toNat + h.toNat)
    (off : BitVec 13) : regionAddr r off = pageAddr p (h ++ off) := by
  apply BitVec.eq_of_toNat_eq
  rw [regionAddr_toNat, pageAddr_toNat, append13_toNat]
  omega

theorem sccRegionAddr_eq_pageAddr (off : BitVec 10) : sccRegionAddr off = pageAddr 2 (0b0110#4 ++ off) := by
  apply BitVec.eq_of_toNat_eq
  rw [sccRegionAddr_toNat, pageAddr_toNat, append10_toNat]
  show _ = 2 * 16384 + _
  omega

theorem window8_append13 (p : Page) (h : BitVec 1) (off : BitVec 13) :
    window8 p (h ++ off) = (p.toNat - 1) * 2 + h.toNat := by
  have := off.isLt
  rw [window8_eq, append13_toNat]
  omega

/-- The SCC region lies in window 2 (20 R63). -/
theorem window8_append10 (off : BitVec 10) : window8 2 (0b0110#4 ++ off) = 2 := by
  have := off.isLt
  rw [window8_eq, append10_toNat]
  show 1 * 2 + _ = 2
  omega

theorem bankOffset8_append13 (h : BitVec 1) (off : BitVec 13) : bankOffset8 (h ++ off) = off := by
  apply BitVec.eq_of_toNat_eq
  have := off.isLt
  rw [bankOffset8_toNat, append13_toNat]
  omega

/-! ## Each row is the transaction it decodes (log entry 11) -/

/-- The row of a window is the TRANSLATE that reads there, where its rule is the variant's read rule. -/
theorem winRow_pageAddr {v : Mapper} {rule : MapperState → EffSlot → Loc} {p : Page} {o : Off14}
    (hp : p = 1 ∨ p = 2) (hr : ∀ (m : MapperState) (k : EffSlot), m.variant = v → rule m k = m.readLoc k p o)
    (slot : SlotId) (s : State) : s.winRow v rule slot (pageAddr p o) = execTranslate slot p o s := by
  rw [winRow_eq_execTranslate, pageOf_pageAddr, offsetOf_pageAddr]
  · rw [pageOf_pageAddr]
    exact (inCartridgeArea_iff p).mpr hp
  · simpa using hr

/-- A row of an 8 KB window, the half `h` of page `p`. -/
theorem winRow_regionAddr {v : Mapper} {rule : MapperState → EffSlot → Loc} {r : BitVec 3} {p : Page}
    {h : BitVec 1} {off : BitVec 13} (hp : p = 1 ∨ p = 2) (hr : r.toNat = 2 * p.toNat + h.toNat)
    (hrule : ∀ (m : MapperState) (k : EffSlot), m.variant = v → rule m k = m.readLoc k p (h ++ off))
    (slot : SlotId) (s : State) :
    s.winRow v rule slot (regionAddr r off) = execTranslate slot p (h ++ off) s := by
  rw [regionAddr_eq_pageAddr hr]
  exact winRow_pageAddr hp hrule slot s

/-- SCC.WIN2_READ's rule is the SCC read rule on 13 bits of the offset: both redirect the same addresses, to
the same register of the block. -/
theorem sccWin2_rule {m : MapperState} (hv : m.variant = .konamiSCC) (k : EffSlot) {p : Page} {o : Off14}
    {off : BitVec 13} (hw : window8 p o = 2) (ho : o.toNat = off.toNat) :
    (if m.scc = some true ∧ 0x1800#13 ≤ off ∧ off ≤ 0x1BFF#13 then .scc k ((off - 0x1800#13).setWidth 10)
      else m.rom8 k (m.bankAt 2) off) = m.readLoc k p o := by
  by_cases hc : m.scc = some true ∧ 0x1800 ≤ off.toNat ∧ off.toNat ≤ 0x1BFF
  · obtain ⟨hscc, hlo, hhi⟩ := hc
    have hoff : off.toNat = 0x1800 + (BitVec.ofNat 10 (off.toNat - 0x1800)).toNat := by
      rw [BitVec.toNat_ofNat]
      omega
    rw [if_pos ⟨hscc, redirectOffset_of_toNat (by decide) hoff⟩, redirectOffset_sub (by decide) hoff,
      readLoc_scc_redirect hv hscc k hw (ho.trans hoff)]
  · have hrom : ¬ (window8 p o = 2 ∧ m.scc = some true ∧ 0x1800 ≤ o.toNat ∧ o.toNat ≤ 0x1BFF) := by
      rw [ho]
      exact fun h => hc h.2
    rw [← redirectOffset_iff (by decide)] at hc
    have := off.isLt
    rw [if_neg hc, readLoc_scc_rom hv k hrom, hw, ho, rom8_eq_romAt, Nat.mod_eq_of_lt this]

/-- The region row is the TRANSLATE at its address, in every state: while the flag is 1 the SCC read rule
redirects that address to the same register (43 R176). -/
theorem exec_sccRegionRead_eq_translate (slot : SlotId) (off : BitVec 10) (s : State) :
    exec (.sccRegionRead slot off) s = exec (.translate slot 2 (0b0110#4 ++ off)) s := by
  show execSccRegionRead slot off s = execTranslate slot 2 (0b0110#4 ++ off) s
  simp only [execSccRegionRead, sccRegionAddr_eq_pageAddr, pageOf_pageAddr, offsetOf_pageAddr]
  split
  · rfl
  · rename_i m hm
    split_ifs with hr
    · obtain ⟨hv, hscc⟩ := (redirects_iff m).mp hr
      have hread : exec (.translate slot 2 (0b0110#4 ++ off)) s = .next (s.locating (.scc (s.blk.eff slot) off)) := by
        rw [exec_translate_of_holds ⟨hm, hv⟩ (by decide),
          readLoc_scc_redirect hv hscc _ (window8_append10 off) (append10_toNat off)]
      exact hread.symm
    · rfl

/-- SCC.SEL2 with any value is the WRITE at its address: 0x3F makes it the WRITE by definition (43 R174). -/
theorem exec_sccSel2_eq_write (slot : SlotId) (off : BitVec 11) (x : Byte) (s : State) :
    exec (.sccSel2 slot off x) s = exec (.write slot (blockAddr 18 off) x) s := by
  show execSccSel2 slot off x s = execWrite slot (blockAddr 18 off) x s
  unfold execSccSel2
  split_ifs with hx
  · rfl
  · exact ctrlRow_eq_execWrite fun m hv => by simp [MapperState.writeRegister, hv, hx]

/-- Every row but SCC.REGION_WRITE: its rule is the variant's, at the register or the window of its address. -/
theorem exec_eq_exec_transaction {i : Instr} (hi : ∀ slot off x, i ≠ .sccRegionWrite slot off x) (s : State) :
    exec i s = exec i.transaction s := by
  cases i with
  | resolve | select | isExp | register | unregister | write | translate | busRead | busWrite | reset => rfl
  | sccSel2 slot off x => exact exec_sccSel2_eq_write slot off x s
  | sccRegionRead slot off => exact exec_sccRegionRead_eq_translate slot off s
  | sccRegionWrite slot off x => exact absurd rfl (hi slot off x)
  | konamiSel1 | konamiSel2 | konamiSel3 | sccSel0 | sccSel1 | sccSccOn | sccSel3
  | ascii8Sel0 | ascii8Sel1 | ascii8Sel2 | ascii8Sel3 | ascii16Sel0 | ascii16Sel1 =>
    exact ctrlRow_eq_execWrite fun m hv => by simp [MapperState.writeRegister, hv]
  | konamiWin0Read | konamiWin1Read | konamiWin2Read | konamiWin3Read =>
    simp only [exec, Instr.transaction]
    refine winRow_regionAddr ?_ ?_ (fun m k hv => ?_) _ _
    · decide
    · decide
    · simp [MapperState.readLoc, hv, MapperState.konamiRead, window8_append13, bankOffset8_append13]
  | sccWin2Read slot off =>
    simp only [exec, Instr.transaction]
    refine winRow_regionAddr ?_ ?_ (fun m k hv => ?_) _ _
    · decide
    · decide
    · exact sccWin2_rule hv k (window8_append13 2 0 off) (by simp [append13_toNat])
  | sccWin0Read | sccWin1Read | sccWin3Read =>
    simp only [exec, Instr.transaction]
    refine winRow_regionAddr ?_ ?_ (fun m k hv => ?_) _ _
    · decide
    · decide
    · simp [MapperState.readLoc, hv, MapperState.sccRead, window8_append13, bankOffset8_append13]
  | ascii8Win0Read | ascii8Win1Read | ascii8Win2Read | ascii8Win3Read =>
    simp only [exec, Instr.transaction]
    refine winRow_regionAddr ?_ ?_ (fun m k hv => ?_) _ _
    · decide
    · decide
    · simp [MapperState.readLoc, hv, MapperState.ascii8Read, window8_append13, bankOffset8_append13]
  | ascii16Win0Read | ascii16Win1Read =>
    simp only [exec, Instr.transaction]
    refine winRow_pageAddr ?_ (fun m k hv => ?_) _ _
    · decide
    · simp [MapperState.readLoc, hv, MapperState.ascii16Read, window16]

/-! ## SCC.REGION_WRITE: its WRITE and the delivery (log entry 10) -/

theorem sccRegionAddr_of_toNat {a : Addr} {off : BitVec 10} (h : a.toNat = 0x9800 + off.toNat) :
    sccRegionAddr off = a :=
  BitVec.eq_of_toNat_eq ((sccRegionAddr_toNat off).trans h.symm)

/-- The row while the flag is 1 (43 R177). -/
theorem exec_sccRegionWrite_of_redirects {s : State} {slot : SlotId} {m : MapperState}
    (hm : s.blk.mapper? (s.blk.eff slot) = some m) (hr : m.redirects = true) (off : BitVec 10) (x : Byte) :
    exec (.sccRegionWrite slot off x) s = .next { s with
      deliveries := s.deliveries ++ [⟨.scc (s.blk.eff slot) off, x⟩]
      result := .written (.forward (.scc (s.blk.eff slot) off) x) } := by
  simp only [exec, execSccRegionWrite, hm, hr]
  rfl

/-- The row in any other state is its WRITE (43 R178). -/
theorem exec_sccRegionWrite_of_not_redirects {s : State} {slot : SlotId}
    (h : ∀ m, s.blk.mapper? (s.blk.eff slot) = some m → m.redirects = false) (off : BitVec 10) (x : Byte) :
    exec (.sccRegionWrite slot off x) s = exec (.write slot (sccRegionAddr off) x) s := by
  simp only [exec, execSccRegionWrite]
  split
  · rfl
  · rename_i m hm
    simp [h m hm]

/-- Settles O50: `exec_eq_exec_transaction`; and for SCC.REGION_WRITE the cases of `on_write`, of which only the
redirect hands a byte over. -/
theorem rowsAreTheTransactionsTheyDecode : Obligations.RowsAreTheTransactionsTheyDecode := by
  refine ⟨fun i s hi => exec_eq_exec_transaction hi s, fun s slot a off x ha => ?_⟩
  by_cases h : ∃ m, s.blk.mapper? (s.blk.eff slot) = some m ∧ m.redirects = true
  · obtain ⟨m, hm, hr⟩ := h
    have hwrite := exec_write_of_onWrite (onWrite_redirect hm hr ha s.ctrlDecode x)
    exact ⟨_, _, hwrite, exec_sccRegionWrite_of_redirects hm hr off x⟩
  · have hrow : exec (.sccRegionWrite slot off x) s = exec (.write slot a x) s := by
      rw [exec_sccRegionWrite_of_not_redirects (by simpa using h), sccRegionAddr_of_toNat ha]
    rcases onWrite_cases s.blk s.ctrlDecode (s.blk.eff slot) a x with
      ⟨-, hw⟩ | ⟨m, hm, ⟨i, -, hw⟩ | ⟨-, ⟨hr, -, -⟩ | ⟨-, hw⟩⟩⟩
    · exact ⟨_, _, exec_write_of_onWrite hw, by simp [hrow, exec_write_of_onWrite hw]⟩
    · exact ⟨_, _, exec_write_of_onWrite hw, by simp [hrow, exec_write_of_onWrite hw]⟩
    · exact absurd ⟨m, hm, hr⟩ h
    · exact ⟨_, _, exec_write_of_onWrite hw, by simp [hrow, exec_write_of_onWrite hw]⟩

end Sys2Proof.Machine

/-! The Mapper Engine's statements (41_mapper_engine.md). -/

namespace Sys2Proof.Machine

/-! ## TRANSLATE on a key (41 R137 to R139) -/

theorem translate_plain {b : Block} {k : EffSlot} (h : b.mapper? k = none) (p : Page) (o : Off14) :
    b.translate k p o = .plain k p o := by
  simp [Block.translate, h]

theorem translate_readLoc {b : Block} {k : EffSlot} {m : MapperState} {p : Page} (h : b.mapper? k = some m)
    (hp : p = 1 ∨ p = 2) (o : Off14) : b.translate k p o = m.readLoc k p o := by
  simp [Block.translate, h, (inCartridgeArea_iff p).mpr hp]

theorem translate_unmapped {b : Block} {k : EffSlot} {m : MapperState} {p : Page} (h : b.mapper? k = some m)
    (hp : p = 0 ∨ p = 3) (o : Off14) : b.translate k p o = .unmapped k p o := by
  obtain rfl | rfl := hp <;> simp [Block.translate, h, inCartridgeArea]

/-- Settles O21: the two cases of `translate` that read no window. -/
theorem translateOutsideTheWindows : Obligations.TranslateOutsideTheWindows := by
  intro s slot p o
  refine ⟨fun hnone => ?_, fun m hm hp => ?_⟩
  · rw [exec_translate, translate_plain hnone]
  · rw [exec_translate, translate_unmapped hm hp]

/-! ## Ordinary writes (41 R133, R135) -/

/-- The redirected window offsets are those of the SCC region (20 R63). -/
theorem redirectsRead_iff (m : MapperState) (a : Addr) :
    m.redirectsRead (pageOf a) (offsetOf a) ↔
      m.variant = .konamiSCC ∧ m.scc = some true ∧ 0x9800 ≤ a.toNat ∧ a.toNat ≤ 0x9BFF := by
  have := a.isLt
  simp only [MapperState.redirectsRead, windowAt, pageOf_toNat, offsetOf_toNat]
  refine and_congr_right fun _ => and_congr_right fun _ => ?_
  omega

theorem redirect_eq_false {m : MapperState} {a : Addr}
    (h : ¬ (m.variant = .konamiSCC ∧ m.scc = some true ∧ 0x9800 ≤ a.toNat ∧ a.toNat ≤ 0x9BFF)) :
    (m.redirects && inSccRegion a) = false := by
  rw [← and_assoc, ← redirects_iff, ← inSccRegion_iff] at h
  simpa using h

theorem page_cases (p : Page) : (p = 1 ∨ p = 2) ∨ p = 0 ∨ p = 3 := by
  revert p
  decide

/-- Settles O19: outside the redirect the read rule gives ROM on pages 1 and 2, and no rule reads the others. -/
theorem ordinaryWriteLeavesBlock : Obligations.OrdinaryWriteLeavesBlock := by
  intro s slot a x
  refine ⟨fun hnone => exec_write_of_onWrite (onWrite_none hnone _ a x), fun m hm hd hno => ?_⟩
  refine ⟨_, exec_write_of_onWrite (onWrite_discarded hm hd (redirect_eq_false hno) x), exec_translate .., ?_,
    fun hp => translate_unmapped hm hp _⟩
  rcases page_cases (pageOf a) with hp | hp
  · have hread : ¬ m.redirectsRead (pageOf a) (offsetOf a) := fun h => hno ((redirectsRead_iff m a).mp h)
    rw [translate_readLoc hm hp, readLoc_of_not_redirectsRead hread]
    exact iff_of_true ⟨_, rfl⟩ hp
  · rw [translate_unmapped hm hp]
    refine iff_of_false (by simp) ?_
    rcases hp with hp | hp <;> simp [hp]

/-! ## Register writes (41 R134, R136) -/

@[simp] theorem setScc_bankAt (m : MapperState) (f : Bool) (i : Nat) : (m.setScc f).bankAt i = m.bankAt i := rfl

theorem bankAt_selectBank_same {m : MapperState} {i : Nat} (hi : i < m.bank.length) (x : Byte) :
    (m.selectBank i x).bankAt i = x.toNat % m.bankCount := by
  simp [MapperState.bankAt, hi]

theorem bankAt_selectBank_ne (m : MapperState) {i j : Nat} (h : j ≠ i) (x : Byte) :
    (m.selectBank i x).bankAt j = m.bankAt j := by
  simp [MapperState.bankAt, List.getElem?_set_ne h.symm]

section RegisterWrite

variable {m : MapperState} {mode : CtrlDecode} {a : Addr} {i : Nat} (hd : decodeCtrl mode m.variant a = some i)
  (x : Byte)

include hd

theorem writeRegister_bankAt_ne {j : Nat} (hj : j ≠ i) : (m.writeRegister i x).bankAt j = m.bankAt j := by
  rw [writeRegister_eq hd]
  split_ifs with hscc
  · rfl
  · rw [setScc_bankAt, bankAt_selectBank_ne m (hscc.2 ▸ hj)]
  · exact bankAt_selectBank_ne m hj x

theorem writeRegister_bankAt_same (hi : i < m.bank.length)
    (hon : ¬ (m.variant = .konamiSCC ∧ i = 2 ∧ x = 0x3F#8)) :
    (m.writeRegister i x).bankAt i = x.toNat % m.bankCount := by
  rw [writeRegister_eq hd]
  split_ifs with hscc hx
  · exact absurd ⟨hscc.1, hscc.2, hx⟩ hon
  · obtain rfl := hscc.2
    rw [setScc_bankAt, bankAt_selectBank_same hi]
  · exact bankAt_selectBank_same hi x

theorem writeRegister_scc :
    (m.writeRegister i x).scc = if m.variant = .konamiSCC ∧ i = 2 then some (x == 0x3F#8) else m.scc := by
  rw [writeRegister_eq hd]
  split_ifs with hscc hx
  · simp [hx]
  · simp [hx]
  · rfl

theorem writeRegister_length : (m.writeRegister i x).bank.length = m.bank.length := by
  rw [writeRegister_eq hd]
  split_ifs <;> simp

/-- The value 0x3F at KonamiSCC register 2 stores no bank (43 R174). -/
theorem writeRegister_sccOn (hv : m.variant = .konamiSCC) (hi : i = 2) (hx : x = 0x3F#8) :
    m.writeRegister i x = m.setScc true := by
  rw [writeRegister_eq hd, if_pos ⟨hv, hi⟩, if_pos hx]

end RegisterWrite

/-- Settles O20: the frame laws of `setMapper`, and one law of `writeRegister` for each field. -/
theorem registerWriteChangesOnlyItsRegister : Obligations.RegisterWriteChangesOnlyItsRegister := by
  intro s slot a x m i hm hd
  obtain ⟨hvariant, hrom, hsize, hcount⟩ := writeRegister_geometry m i x
  exact ⟨_, m.writeRegister i x, exec_write_of_onWrite (onWrite_register hm hd x), mapper?_setMapper_same ..,
    fun k hk => mapper?_setMapper_ne _ _ hk, rfl, rfl, fun j hj => writeRegister_bankAt_ne hd x hj,
    fun hon hi => writeRegister_bankAt_same hd x hi hon,
    fun hv hi hx => by rw [writeRegister_sccOn hd x hv hi hx, setScc_bankAt],
    writeRegister_scc hd x, hvariant, hrom, hsize, hcount, writeRegister_length hd x⟩

/-- Settles O24: the read rule at the written register's window, of the MapperState that the write leaves. -/
theorem bankWriteShowsAtOnce : Obligations.BankWriteShowsAtOnce := by
  rintro s slot v m a x i ⟨hm, rfl⟩ hd hi hon
  refine ⟨_, exec_write_of_onWrite (onWrite_register hm hd x), fun p o hp hw => ?_⟩
  obtain ⟨hvariant, hrom, -, -⟩ := writeRegister_geometry m i x
  have hread : ¬ (m.writeRegister i x).redirectsRead p o := by
    rintro ⟨hv, hscc, hw2, -⟩
    rw [hvariant] at hv
    obtain rfl : i = 2 := by rw [← hw, hv, hw2]
    rw [writeRegister_scc hd x, if_pos ⟨hv, rfl⟩] at hscc
    exact hon ⟨hv, rfl, by simpa using hscc⟩
  have hbank : (m.writeRegister i x).shownBank i = x.toNat % m.bankCount := by
    have hk : ¬ (m.variant = .konami ∧ i = 0) := fun h => (decodeCtrl_bound hd).2 h.1 h.2
    rw [MapperState.shownBank, hvariant, if_neg hk, writeRegister_bankAt_same hd x hi hon]
  rw [exec_translate, setMapper_eff, translate_readLoc (mapper?_setMapper_same ..) hp,
    readLoc_of_not_redirectsRead hread, hvariant, hw, hbank, bankSizeOf_eq_ite, romAt, hrom, romAt]

/-! ## Reads stay inside the image (41 R140) -/

theorem windowAt_lt (v : Mapper) {p : Page} (hp : p = 1 ∨ p = 2) (o : Off14) : windowAt v p o < windowsOf v := by
  have := o.isLt
  obtain rfl | rfl := hp <;> cases v <;> simp [windowAt, windowsOf] <;> omega

theorem bankOffsetAt_lt (v : Mapper) (o : Off14) : bankOffsetAt v o < bankSizeOf v := by
  have := o.isLt
  cases v <;> simp only [bankOffsetAt, bankSizeOf] <;> omega

theorem bankAt_lt {m : MapperState} (h : m.wf) {i : Nat} (hi : i < windowsOf m.variant) :
    m.bankAt i < m.bankCount := by
  obtain ⟨-, -, -, -, hlen, hbanks, -, -⟩ := h
  have hget : m.bankAt i = m.bank[i]'(hlen ▸ hi) := by simp [MapperState.bankAt, hlen, hi]
  rw [hget]
  exact hbanks _ (List.getElem_mem _)

/-- Konami's register 0 holds the bank that its window shows (42 R161). -/
theorem shownBank_eq_bankAt {m : MapperState} (h : m.wf) (w : Nat) : m.shownBank w = m.bankAt w := by
  obtain ⟨-, -, -, -, -, -, hk, -⟩ := h
  unfold MapperState.shownBank
  split_ifs with hw
  · rw [hw.2, hk hw.1]
  · rfl

/-- A byte of one of the image's banks is a byte of the image (30 R86). -/
theorem physOffset_lt {m : MapperState} (h : m.wf) {bank off : Nat} (hb : bank < m.bankCount)
    (ho : off < m.bankSize) : bank * m.bankSize + off < m.romSize := by
  obtain ⟨-, -, hmod, hcount, -, -, -, -⟩ := h
  calc bank * m.bankSize + off < (bank + 1) * m.bankSize := by rw [Nat.succ_mul]; omega
    _ ≤ m.bankCount * m.bankSize := Nat.mul_le_mul_right _ hb
    _ = m.romSize := by rw [hcount, Nat.div_mul_cancel (Nat.dvd_of_mod_eq_zero hmod)]

/-- Settles O22: a bank register is below the bank count, so the sum is below the image size and the reduction
of 30 R86 changes nothing. -/
theorem windowReadStaysInsideImage : Obligations.WindowReadStaysInsideImage := by
  rintro s slot v m p o bank hinv ⟨hm, rfl⟩ hp hbank
  have hwf : m.wf := (hinv _ m hm).1
  have hsize : m.bankSize = bankSizeOf m.variant := hwf.2.1
  obtain rfl : bank = m.shownBank (windowAt m.variant p o) := hbank
  have hlt : m.shownBank (windowAt m.variant p o) < m.bankCount :=
    shownBank_eq_bankAt hwf _ ▸ bankAt_lt hwf (windowAt_lt m.variant hp o)
  have hoff : bankOffsetAt m.variant o < m.bankSize := hsize ▸ bankOffsetAt_lt m.variant o
  have himage := physOffset_lt hwf hlt hoff
  refine ⟨hlt, hoff, himage, fun x hv hscc hw ho => ?_, fun hno => ?_⟩
  · rw [hv] at hw
    rw [exec_translate_of_holds ⟨hm, hv⟩ hp, readLoc_scc_redirect hv hscc _ ((window8_eq p o).trans hw) ho]
  · have hread : ¬ m.redirectsRead p o := fun ⟨hv, hscc, hw, ho⟩ => hno ⟨hv, hscc, hv.symm ▸ hw, ho⟩
    rw [exec_translate_of_holds ⟨hm, rfl⟩ hp, readLoc_of_not_redirectsRead hread, ← hsize, romAt,
      Nat.mod_eq_of_lt himage]

/-! ## S.assign plays no part (41 R142) -/

/-- S with other pages selected. -/
def Block.withAssign (b : Block) (pages : Vector SlotId 4) : Block := { b with assign := pages }

@[simp] theorem withAssign_eff (b : Block) (pages : Vector SlotId 4) (x : SlotId) :
    (b.withAssign pages).eff x = b.eff x := rfl

@[simp] theorem withAssign_mapper? (b : Block) (pages : Vector SlotId 4) (k : EffSlot) :
    (b.withAssign pages).mapper? k = b.mapper? k := rfl

@[simp] theorem withAssign_translate (b : Block) (pages : Vector SlotId 4) (k : EffSlot) (p : Page) (o : Off14) :
    (b.withAssign pages).translate k p o = b.translate k p o := rfl

/-- `on_write` has the same outcome, and leaves the same S but for its pages. -/
theorem onWrite_withAssign (b : Block) (pages : Vector SlotId 4) (mode : CtrlDecode) (k : EffSlot) (a : Addr)
    (x : Byte) :
    (b.withAssign pages).onWrite mode k a x =
      ((b.onWrite mode k a x).1.withAssign pages, (b.onWrite mode k a x).2) := by
  simp only [Block.onWrite, withAssign_mapper?, withAssign_translate]
  split
  · rfl
  · split
    · rfl
    · split_ifs <;> rfl

theorem exists_withAssign_of_sameButAssign {s u : State} (h : sameButAssign s u) :
    ∃ pages, u.blk = s.blk.withAssign pages := by
  obtain ⟨hexp, hmappers, -⟩ := h
  exact ⟨u.blk.assign, by rw [Block.withAssign, hexp, hmappers]⟩

/-- Settles O23: the two blocks differ in their pages only. -/
theorem writeAndTranslateIgnoreAssign : Obligations.WriteAndTranslateIgnoreAssign := by
  intro s u h
  obtain ⟨pages, hblk⟩ := exists_withAssign_of_sameButAssign h
  refine ⟨fun slot a x => ?_, fun slot p o => ⟨_, exec_translate slot p o s, ?_⟩⟩
  · have hu : u.blk.onWrite u.ctrlDecode (u.blk.eff slot) a x =
        ((s.blk.onWrite s.ctrlDecode (s.blk.eff slot) a x).1.withAssign pages,
          (s.blk.onWrite s.ctrlDecode (s.blk.eff slot) a x).2) := by
      rw [hblk, withAssign_eff, ← h.2.2, onWrite_withAssign]
    exact ⟨_, _, _, exec_write slot a x s, exec_write_of_onWrite hu, rfl, (onWrite_tables ..).1, by rw [hblk]; rfl⟩
  · rw [exec_translate, hblk, withAssign_translate, withAssign_eff]

end Sys2Proof.Machine

/-! The variants' selects and windows (42_konami.md to 45_ascii16.md). -/

namespace Sys2Proof.Machine

/-! ## Addresses that select nothing (42 R166, 43 R179, 44 R191, 45 R199) -/

theorem decodeCtrl_of_selectsNothing {v : Mapper} {mode : CtrlDecode} {a : Addr} (h : selectsNothing v mode a) :
    decodeCtrl mode v a = none := by
  cases v <;> cases mode <;> simp [selectsNothing] at h
  · rw [decodeCtrl_konami_exact]
    repeat rw [if_neg (by omega)]
  · rw [decodeCtrl_konami_range]
    repeat rw [if_neg (by omega)]
  · rw [decodeCtrl_scc_exact]
    repeat rw [if_neg (by omega)]
  · rw [decodeCtrl_scc_range]
    repeat rw [if_neg (by omega)]
  · rw [decodeCtrl_ascii8_exact]
    repeat rw [if_neg (by omega)]
  · rw [decodeCtrl_ascii8_range]
    repeat rw [if_neg (by omega)]
  · rw [decodeCtrl_ascii16_exact]
    repeat rw [if_neg (by omega)]
  · rw [decodeCtrl_ascii16_range]
    repeat rw [if_neg (by omega)]

/-- Settles O38: such a write is an ordinary write, and no redirect covers it. -/
theorem unmatchedWritesAreDiscarded : Obligations.UnmatchedWritesAreDiscarded := by
  rintro s slot v m a x ⟨hm, rfl⟩ hnothing
  have hno : ¬ (m.variant = .konamiSCC ∧ m.scc = some true ∧ 0x9800 ≤ a.toNat ∧ a.toNat ≤ 0x9BFF) := by
    rintro ⟨hv, -, hregion⟩
    rw [hv] at hnothing
    exact hnothing.1 hregion
  obtain ⟨loc, hwrite, htranslate, -⟩ :=
    (ordinaryWriteLeavesBlock s slot a x).2 m hm (decodeCtrl_of_selectsNothing hnothing) hno
  exact ⟨loc, hwrite, htranslate⟩

/-! ## Konami window 0 (42 R161) -/

/-- Settles O27: no control address lies in the window, and bank 0 starts at byte 0 of the image. -/
theorem konamiWindowZeroIsFixed : Obligations.KonamiWindowZeroIsFixed := by
  rintro s slot m a x ⟨hm, hv⟩ hrom hlo hhi
  have hd : decodeCtrl s.ctrlDecode m.variant a = none := by
    rw [hv]
    exact decodeCtrl_of_selectsNothing (.inl (by omega))
  have hpage : pageOf a = 1 := by
    apply BitVec.eq_of_toNat_eq
    rw [pageOf_toNat]
    show _ = 1
    omega
  have hread : ¬ m.redirectsRead (pageOf a) (offsetOf a) := fun h => absurd h.1 (by simp [hv])
  have hloc : s.blk.translate (s.blk.eff slot) (pageOf a) (offsetOf a) =
      .rom (s.blk.eff slot) (a.toNat - 0x4000) := by
    have hw : windowAt .konami (pageOf a) (offsetOf a) = 0 := by
      simp only [windowAt, pageOf_toNat, offsetOf_toNat]
      omega
    have hoff : 0 * bankSizeOf .konami + bankOffsetAt .konami (offsetOf a) = a.toNat - 0x4000 := by
      simp only [bankOffsetAt, offsetOf_toNat]
      omega
    rw [translate_readLoc hm (.inl hpage), readLoc_of_not_redirectsRead hread, hv, hw, MapperState.shownBank,
      if_pos ⟨hv, rfl⟩, romAt, hoff, Nat.mod_eq_of_lt (by omega)]
  have hwrite := onWrite_discarded hm hd (redirect_eq_false (by simp [hv])) x
  rw [hloc] at hwrite
  exact ⟨exec_write_of_onWrite hwrite, by rw [exec_translate, hloc]⟩

/-! ## SCC.SEL2 (43 R173) -/

/-- Settles O29: register 2's rule at a value other than 0x3F; the row is that WRITE. -/
theorem sccSelectTwoEndsRedirect : Obligations.SccSelectTwoEndsRedirect := by
  rintro s t slot m a off x ⟨hm, hv⟩ hx hit rfl
  have hd : decodeCtrl s.ctrlDecode m.variant a = some 2 :=
    hv ▸ decodeCtrl_scc_of_controlHit (by decide) (by decide) (by decide) hit
  have hrule : m.writeRegister 2 x = (m.selectBank 2 x).setScc false := by
    rw [writeRegister_eq hd, if_pos ⟨hv, rfl⟩, if_neg hx]
  have hwrite := exec_write_of_onWrite (onWrite_register hm hd x)
  rw [hrule] at hwrite
  refine ⟨hwrite, fun ha => ?_⟩
  rw [exec_sccSel2_eq_write, blockAddr_of_toNat (r := 18) ha]
  exact hwrite

/-! ## The ASCII selects (44 R186 to R189, 45 R196, R197) -/

theorem decodeCtrl_ascii8_of_controlHit {mode : CtrlDecode} {base last a : Addr} {i : Nat} (hi : i < 4)
    (hbase : base.toNat = (i + 12) * 2048) (hlast : last.toNat = (i + 12) * 2048 + 2047)
    (h : controlHit mode base last a) : decodeCtrl mode .ascii8 a = some i := by
  cases mode with
  | exact =>
    obtain rfl : a = base := h
    rw [decodeCtrl_ascii8_exact, hbase]
    interval_cases i <;> rfl
  | range =>
    obtain ⟨hle, hge⟩ : base ≤ a ∧ a ≤ last := h
    have hblock : a.toNat / 2048 = i + 12 := by rw [BitVec.le_def] at hle hge; omega
    rw [decodeCtrl_ascii8_range, hblock]
    interval_cases i <;> rfl

theorem decodeCtrl_ascii16_of_controlHit {mode : CtrlDecode} {base last a : Addr} {i : Nat} (hi : i < 2)
    (hbase : base.toNat = (2 * i + 12) * 2048) (hlast : last.toNat = (2 * i + 12) * 2048 + 2047)
    (h : controlHit mode base last a) : decodeCtrl mode .ascii16 a = some i := by
  cases mode with
  | exact =>
    obtain rfl : a = base := h
    rw [decodeCtrl_ascii16_exact, hbase]
    interval_cases i <;> rfl
  | range =>
    obtain ⟨hle, hge⟩ : base ≤ a ∧ a ≤ last := h
    have hblock : a.toNat / 2048 = 2 * i + 12 := by rw [BitVec.le_def] at hle hge; omega
    rw [decodeCtrl_ascii16_range, hblock]
    interval_cases i <;> rfl

/-- A plain select whose control address lies in the 2 KB block `r`: the WRITE, and the row that decodes it. -/
theorem block_select_stores {s : State} {slot : SlotId} {v : Mapper} {m : MapperState} {a : Addr} {r : BitVec 5}
    {i : Nat} (h : s.holds slot v m) (hv : v ≠ .konamiSCC) (hd : decodeCtrl s.ctrlDecode v a = some i)
    (off : BitVec 11) (x : Byte) :
    exec (.write slot a x) s = .next (s.bankSelected slot m i x) ∧
    (a.toNat = r.toNat * 2048 + off.toNat →
      s.ctrlRow v i (fun m => m.selectBank i x) slot (blockAddr r off) x = .next (s.bankSelected slot m i x)) := by
  refine ⟨exec_write_bankSelected h hd (fun hflag => hv hflag.1) x, fun ha => ?_⟩
  rw [blockAddr_of_toNat ha]
  exact ctrlRow_bankSelected h hd x

/-- Settles O34: each clause is `block_select_stores` at the register and its block. -/
theorem ascii8SelectsStoreBank : Obligations.Ascii8SelectsStoreBank := by
  intro s slot m a off x h
  refine ⟨fun hit => ?_, fun hit => ?_, fun hit => ?_, fun hit => ?_⟩
  · have hd := decodeCtrl_ascii8_of_controlHit (i := 0) (by decide) (by decide) (by decide) hit
    exact block_select_stores (r := 12) h (by decide) hd off x
  · have hd := decodeCtrl_ascii8_of_controlHit (i := 1) (by decide) (by decide) (by decide) hit
    exact block_select_stores (r := 13) h (by decide) hd off x
  · have hd := decodeCtrl_ascii8_of_controlHit (i := 2) (by decide) (by decide) (by decide) hit
    exact block_select_stores (r := 14) h (by decide) hd off x
  · have hd := decodeCtrl_ascii8_of_controlHit (i := 3) (by decide) (by decide) (by decide) hit
    exact block_select_stores (r := 15) h (by decide) hd off x

/-- Settles O36: each clause is `block_select_stores` at the register and its block. -/
theorem ascii16SelectsStoreBank : Obligations.Ascii16SelectsStoreBank := by
  intro s slot m a off x h
  refine ⟨fun hit => ?_, fun hit => ?_⟩
  · have hd := decodeCtrl_ascii16_of_controlHit (i := 0) (by decide) (by decide) (by decide) hit
    exact block_select_stores (r := 12) h (by decide) hd off x
  · have hd := decodeCtrl_ascii16_of_controlHit (i := 1) (by decide) (by decide) (by decide) hit
    exact block_select_stores (r := 14) h (by decide) hd off x

end Sys2Proof.Machine

/-! The bus path and the SCC region (46_bus_access.md, 43 R177, R178). -/

namespace Sys2Proof.Machine

/-! ## BUSWRITE (46 R206) -/

/-- A bus write from what `on_write` gives at the slot of its page. -/
theorem exec_busWrite_of_onWrite {s : State} {a : Addr} {x : Byte} {b : Block} {out : WriteOutcome}
    (h : s.blk.onWrite s.ctrlDecode (s.blk.eff (s.blk.assigned (pageOf a))) a x = (b, out)) :
    exec (.busWrite a x) s = (s.forwardOutcome out).commit b (.written out) := by
  simp only [exec, execBusWrite, busWrite_eq, h]

/-- The bytes that an outcome hands over on the bus (46 R206). -/
def WriteOutcome.delivered : WriteOutcome → List Delivery
  | .forward loc y => [⟨loc, y⟩]
  | _ => []

/-- A forwarded byte goes to Plain or to the SCC, and both take it (20 R53, R54). -/
theorem forwardOutcome_onWrite {s : State} {k : EffSlot} {a : Addr} {x : Byte} {b : Block} {out : WriteOutcome}
    (h : s.blk.onWrite s.ctrlDecode k a x = (b, out)) :
    s.forwardOutcome out = { s with deliveries := s.deliveries ++ out.delivered } := by
  cases out with
  | forward loc y =>
    obtain ⟨-, rfl | rfl⟩ := onWrite_forward (congrArg Prod.snd h) <;> rfl
  | consumed | discarded => simp [State.forwardOutcome, WriteOutcome.delivered]

/-- Settles O40: both transactions commit what one `on_write` gives. -/
theorem busWriteComposesTheStages : Obligations.BusWriteComposesTheStages := by
  intro s a x
  obtain ⟨b, out, h⟩ : ∃ b out,
      s.blk.onWrite s.ctrlDecode (s.blk.eff (s.blk.assigned (pageOf a))) a x = (b, out) := ⟨_, _, rfl⟩
  refine ⟨b, out, exec_write_of_onWrite h, ?_⟩
  rw [exec_busWrite_of_onWrite h, forwardOutcome_onWrite h]
  rfl

/-- What a write leaves at a key that is not its own. -/
theorem onWrite_mapper?_ne (b : Block) (mode : CtrlDecode) {k l : EffSlot} (h : l ≠ k) (a : Addr) (x : Byte) :
    (b.onWrite mode k a x).1.mapper? l = b.mapper? l := by
  rcases onWrite_block b mode k a x with e | ⟨m, i, -, -, e⟩ <;> rw [e]
  exact mapper?_setMapper_ne b _ h

/-- Settles O41: the key that is written is that of the page's slot; 0x7000 is register 2 of an ASCII8 slot. -/
theorem busWriteReachesItsPageOnly : Obligations.BusWriteReachesItsPageOnly := by
  refine ⟨fun s a x => ⟨_, exec_busWrite_of_onWrite rfl, fun k hk => onWrite_mapper?_ne _ _ hk a x⟩,
    fun s x m h => ?_⟩
  obtain ⟨hm, hv⟩ := h
  have hd : decodeCtrl s.ctrlDecode m.variant 0x7000 = some 2 := by
    rw [hv]
    cases s.ctrlDecode <;> decide
  have hrule : m.writeRegister 2 x = m.selectBank 2 x := by rw [writeRegister_eq hd, if_neg (by simp [hv])]
  have hwrite := onWrite_register hm hd x
  rw [hrule] at hwrite
  exact exec_busWrite_of_onWrite (a := 0x7000) hwrite

/-! ## BUSREAD (46 R205) -/

theorem exec_busRead (a : Addr) (s : State) :
    exec (.busRead a) s = (s.memRead (s.blk.busLoc a)).2.finish (.read (s.blk.busLoc a)
      (s.memRead (s.blk.busLoc a)).1) := rfl

/-- A translation to ROM is of the key's own image. -/
theorem translate_eq_rom {b : Block} {k l : EffSlot} {p : Page} {o : Off14} {n : Nat}
    (h : b.translate k p o = .rom l n) : l = k ∧ ∃ m, b.mapper? k = some m := by
  rcases translate_cases b k p o with ⟨-, e⟩ | ⟨m, hm, ⟨_, e⟩ | ⟨_, e⟩ | e⟩ <;>
    rw [e] at h <;> simp at h
  exact ⟨h.1.symm, m, hm⟩

/-- A read of any location but ROM draws (20 R53 to R55). -/
theorem memRead_of_not_rom {s : State} {loc : Loc} (h : ∀ k o, loc ≠ .rom k o) :
    s.memRead loc = (Config.draw s.draws, { s with draws := s.draws + 1 }) := by
  rcases memRead_cases s loc with ⟨k, o, _, e, -, -⟩ | e
  · exact absurd e (h k o)
  · exact e

theorem memRead_rom {s : State} {k : EffSlot} {m : MapperState} (h : s.blk.mapper? k = some m) (o : Nat) :
    s.memRead (.rom k o) = (Config.romImage k (s.imageAt k) o, s) := by
  simp [State.memRead, h]

/-- Settles O39: `busLoc` is the translation at the resolved slot, and MemRead tells ROM from the rest. -/
theorem busReadComposesTheStages : Obligations.BusReadComposesTheStages := by
  intro s a
  refine ⟨s.blk.busLoc a, ?_, ?_⟩
  · rw [exec_translate, busLoc_eq]
  · by_cases hrom : ∃ k o, s.blk.busLoc a = .rom k o
    · obtain ⟨k, o, hloc⟩ := hrom
      obtain ⟨rfl, m, hm⟩ := translate_eq_rom ((busLoc_eq s.blk a).symm.trans hloc)
      refine .inl ⟨_, o, m, hloc, hm, ?_⟩
      rw [exec_busRead, hloc, memRead_rom hm]
      rfl
    · have hno : ∀ k o, s.blk.busLoc a ≠ .rom k o := fun k o h => hrom ⟨k, o, h⟩
      refine .inr ⟨hno, ?_⟩
      rw [exec_busRead, memRead_of_not_rom hno]
      rfl

/-! ## The SCC region (43 R177, R178) -/

/-- Settles O32: `on_write` forwards, and the row and the bus hand the byte over. -/
theorem sccRegionWriteReachesDevice : Obligations.SccRegionWriteReachesDevice := by
  rintro s slot m a off x _ ⟨hm, hv⟩ hscc ha rfl
  have hr : m.redirects = true := (redirects_iff m).mpr ⟨hv, hscc⟩
  have hwrite := onWrite_redirect hm hr ha s.ctrlDecode x
  refine ⟨exec_write_of_onWrite hwrite, exec_sccRegionWrite_of_redirects hm hr off x, fun hpage => ?_⟩
  have hp : pageOf a = 2 := by rw [← sccRegionAddr_of_toNat ha, sccRegionAddr_eq_pageAddr, pageOf_pageAddr]
  rw [← hpage, ← hp] at hwrite
  rw [exec_busWrite_of_onWrite hwrite, hp, hpage]
  rfl

/-- Settles O33: without the redirect the region is read as any offset of window 2, and written as ROM. -/
theorem sccRegionIsRomWhileFlagClear : Obligations.SccRegionIsRomWhileFlagClear := by
  rintro s slot m a off x loc ⟨hm, hv⟩ hscc ha hloc
  have haddr : a = pageAddr 2 (0b0110#4 ++ off) := by
    rw [← sccRegionAddr_of_toNat ha, sccRegionAddr_eq_pageAddr]
  have hr : m.redirects = false := by simp [MapperState.redirects, hscc]
  have hd : decodeCtrl s.ctrlDecode m.variant a = none := by
    rw [hv]
    exact decodeCtrl_scc_region _ (by omega)
  have htranslate : s.blk.translate (s.blk.eff slot) 2 (0b0110#4 ++ off) = loc := by
    have hoff : (0b0110#4 ++ off : Off14).toNat % 8192 = a.toNat - 0x8000 := by
      rw [append10_toNat]
      omega
    rw [translate_readLoc hm (by decide), readLoc_scc_rom hv _ (fun h => hscc h.2.1), window8_append10,
      hoff, hloc]
  have hwrite := onWrite_discarded hm hd (by simp [hr]) x
  rw [haddr, pageOf_pageAddr, offsetOf_pageAddr, htranslate, ← haddr] at hwrite
  refine ⟨?_, ?_, exec_write_of_onWrite hwrite, ?_⟩
  · rw [haddr, pageOf_pageAddr, offsetOf_pageAddr, exec_translate, htranslate]
  · rw [exec_sccRegionRead_eq_translate, exec_translate, htranslate]
  · rw [exec_sccRegionWrite_of_not_redirects (by simp [hm, hr]), sccRegionAddr_of_toNat ha]
    exact exec_write_of_onWrite hwrite

end Sys2Proof.Machine

/-! The whole machine: what an instruction can do to S (10_state.md, 20_memory.md section 2). -/

namespace Sys2Proof.Machine

/-- What an instruction can do to S, by the writers of its tables (10 R25 to R28). -/
inductive BlockStep (s : State) (i : Instr) : Block → Prop
  | same : BlockStep s i s.blk
  | select (p : Page) (x : SlotId) (hi : i = .select p x) : BlockStep s i (s.blk.select p x)
  | register (slot : SlotId) (v : Option Variant) (n : Nat) (w : Mapper) (hi : i = .register slot v n) (h0 : 0 < n)
      (hmod : n % bankSizeOf w = 0) :
      BlockStep s i (s.blk.setMapper (s.blk.eff slot) (some (MapperState.fresh w n)))
  | unregister (slot : SlotId) (hi : i = .unregister slot) :
      BlockStep s i (s.blk.setMapper (s.blk.eff slot) none)
  | reset (e : BitVec 4) (hi : i = .reset e) : BlockStep s i (Block.afterReset e)
  | write (slot : SlotId) (a : Addr) (x : Byte) (m : MapperState) (r : Nat)
      (hi : i.transaction = .write slot a x ∨ (i = .busWrite a x ∧ slot = s.blk.assigned (pageOf a)))
      (hm : s.blk.mapper? (s.blk.eff slot) = some m) (hd : decodeCtrl s.ctrlDecode m.variant a = some r) :
      BlockStep s i (s.blk.setMapper (s.blk.eff slot) (some (m.writeRegister r x)))

/-! ## Every instruction takes such a step -/

theorem onWrite_blockStep {s : State} {i : Instr} {slot : SlotId} {a : Addr} {x : Byte}
    (hi : i.transaction = .write slot a x ∨ (i = .busWrite a x ∧ slot = s.blk.assigned (pageOf a))) :
    BlockStep s i (s.blk.onWrite s.ctrlDecode (s.blk.eff slot) a x).1 := by
  rcases onWrite_block s.blk s.ctrlDecode (s.blk.eff slot) a x with e | ⟨m, r, hm, hd, e⟩ <;> rw [e]
  · exact .same
  · exact .write slot a x m r hi hm hd

theorem exec_register_blockStep (slot : SlotId) (v : Option Variant) (n : Nat) (s : State) :
    ∃ t, exec (.register slot v n) s = .next t ∧ BlockStep s (.register slot v n) t.blk := by
  rcases execRegister_cases slot v n s with ⟨r, h⟩ | ⟨w, -, h0, hmod, h⟩
  · exact ⟨_, h, .same⟩
  · exact ⟨_, h, .register slot v n w rfl h0 hmod⟩

theorem exec_sccRegionWrite_blockStep (slot : SlotId) (off : BitVec 10) (x : Byte) (s : State) :
    ∃ t, exec (.sccRegionWrite slot off x) s = .next t ∧ BlockStep s (.sccRegionWrite slot off x) t.blk := by
  by_cases h : ∃ m, s.blk.mapper? (s.blk.eff slot) = some m ∧ m.redirects = true
  · obtain ⟨m, hm, hr⟩ := h
    exact ⟨_, exec_sccRegionWrite_of_redirects hm hr off x, .same⟩
  · rw [exec_sccRegionWrite_of_not_redirects (by simpa using h)]
    exact ⟨_, exec_write .., onWrite_blockStep (.inl rfl)⟩

/-- A row other than SCC.REGION_WRITE takes the step of the WRITE or TRANSLATE that it decodes. -/
theorem exec_row_blockStep {i : Instr} (hi : ∀ slot off x, i ≠ .sccRegionWrite slot off x)
    (h : (∃ slot a x, i.transaction = .write slot a x) ∨ ∃ slot p o, i.transaction = .translate slot p o)
    (s : State) : ∃ t, exec i s = .next t ∧ BlockStep s i t.blk := by
  rw [exec_eq_exec_transaction hi]
  rcases h with ⟨slot, a, x, h⟩ | ⟨slot, p, o, h⟩
  · rw [h]
    exact ⟨_, exec_write slot a x s, onWrite_blockStep (.inl h)⟩
  · rw [h]
    exact ⟨_, exec_translate slot p o s, .same⟩

theorem exec_blockStep (i : Instr) (s : State) : ∃ t, exec i s = .next t ∧ BlockStep s i t.blk := by
  cases i with
  | resolve | isExp | translate => exact ⟨_, rfl, .same⟩
  | select p x => exact ⟨_, exec_select p x s, .select p x rfl⟩
  | register slot v n => exact exec_register_blockStep slot v n s
  | unregister slot => exact ⟨_, exec_unregister slot s, .unregister slot rfl⟩
  | write slot a x => exact ⟨_, exec_write slot a x s, onWrite_blockStep (.inl rfl)⟩
  | busRead a => exact ⟨_, exec_busRead a s, (memRead_blk s (s.blk.busLoc a)).symm ▸ .same⟩
  | busWrite a x =>
    exact ⟨_, exec_busWrite_of_onWrite rfl, onWrite_blockStep (.inr ⟨rfl, rfl⟩)⟩
  | reset e => exact ⟨_, exec_reset e s, .reset e rfl⟩
  | sccRegionWrite slot off x => exact exec_sccRegionWrite_blockStep slot off x s
  | konamiSel1 | konamiSel2 | konamiSel3 | sccSel0 | sccSel1 | sccSel2 | sccSccOn | sccSel3
  | ascii8Sel0 | ascii8Sel1 | ascii8Sel2 | ascii8Sel3 | ascii16Sel0 | ascii16Sel1 =>
    exact exec_row_blockStep (by simp) (.inl ⟨_, _, _, rfl⟩) s
  | sccRegionRead | konamiWin0Read | konamiWin1Read | konamiWin2Read | konamiWin3Read
  | sccWin0Read | sccWin1Read | sccWin2Read | sccWin3Read
  | ascii8Win0Read | ascii8Win1Read | ascii8Win2Read | ascii8Win3Read
  | ascii16Win0Read | ascii16Win1Read =>
    exact exec_row_blockStep (by simp) (.inr ⟨_, _, _, rfl⟩) s

theorem blockStep_of_exec {i : Instr} {s t : State} (h : exec i s = .next t) : BlockStep s i t.blk := by
  obtain ⟨u, hu, hstep⟩ := exec_blockStep i s
  obtain rfl : t = u := Host.Outcome.next.inj (h.symm.trans hu)
  exact hstep

/-! ## The invariant (10 R28, R30, R31, 42 R161) -/

/-- The key of a slot may be written with any well-formed MapperState, or emptied. -/
theorem setMapper_inv {b : Block} (h : b.Inv) (slot : SlotId) {new : Option MapperState}
    (hnew : ∀ m, new = some m → m.wf) : (b.setMapper (b.eff slot) new).Inv := by
  intro k m hk
  rw [mapper?_setMapper] at hk
  split_ifs at hk with hkey
  · exact ⟨hnew m hk, hkey ▸ eff_secondary b slot⟩
  · exact h k m hk

theorem BlockStep.inv {s : State} {i : Instr} {b : Block} (h : BlockStep s i b) (hs : s.blk.Inv) : b.Inv := by
  cases h with
  | same => exact hs
  | select p x hi => exact hs
  | register slot v n w hi h0 hmod => exact setMapper_inv hs slot fun m e => Option.some.inj e ▸ fresh_wf h0 hmod
  | unregister slot hi => exact setMapper_inv hs slot (by simp)
  | reset e hi => exact afterReset_inv e
  | write slot a x m r hi hm hd =>
    exact setMapper_inv hs slot fun m' e => Option.some.inj e ▸ writeRegister_wf (hs _ m hm).1 x hd

/-- Settles O44: a step is an instruction on the same S, and every case of `BlockStep` keeps the invariant. -/
theorem everyStepKeepsInvariant : Obligations.EveryStepKeepsInvariant := by
  intro s t hinv hstep
  obtain ⟨i, u, hblk, hexec⟩ := exists_exec_of_step hstep
  exact (blockStep_of_exec hexec).inv (hblk.symm ▸ hinv)

/-! ## The writers of each table -/

/-- Settles O48: the other cases of `BlockStep` write the MapperTable only. -/
theorem slotTablesHaveFewWriters : Obligations.SlotTablesHaveFewWriters := by
  intro i s t hexec
  have hstep := blockStep_of_exec hexec
  generalize t.blk = b at hstep
  cases hstep with
  | select p x hi => exact ⟨fun _ => .inl ⟨p, x, hi⟩, fun h => absurd rfl h⟩
  | reset e hi => exact ⟨fun _ => .inr ⟨e, hi⟩, fun _ => ⟨e, hi⟩⟩
  | same | register | unregister | write => exact ⟨fun h => absurd rfl h, fun h => absurd rfl h⟩

/-- Settles O49: of the cases left, only a register write touches the MapperTable, and it keeps the geometry. -/
theorem geometryIsFixedAtRegistration : Obligations.GeometryIsFixedAtRegistration := by
  intro i s t k hexec hregister hunregister hreset
  have hstep := blockStep_of_exec hexec
  generalize t.blk = b at hstep
  cases hstep with
  | same | select => exact ⟨id, fun m hm => ⟨m, hm, rfl, rfl, rfl, rfl⟩⟩
  | register slot v n w hi => exact absurd hi (hregister slot v n)
  | unregister slot hi => exact absurd hi (hunregister slot)
  | reset e hi => exact absurd hi (hreset e)
  | write slot a x m r hi hm hd =>
    rw [mapper?_setMapper]
    split_ifs with hkey
    · rw [hkey, hm]
      refine ⟨by simp, fun m' e => ⟨_, rfl, ?_⟩⟩
      exact Option.some.inj e ▸ writeRegister_geometry m r x
    · exact ⟨id, fun m' hm' => ⟨m', hm', rfl, rfl, rfl, rfl⟩⟩

/-! ## Reads (20 R59) -/

@[simp] theorem memRead_deliveries (s : State) (loc : Loc) : (s.memRead loc).2.deliveries = s.deliveries := by
  rcases memRead_cases s loc with ⟨_, _, _, _, _, h⟩ | h <;> rw [h]

@[simp] theorem memRead_images (s : State) (loc : Loc) : (s.memRead loc).2.images = s.images := by
  rcases memRead_cases s loc with ⟨_, _, _, _, _, h⟩ | h <;> rw [h]

/-- The transaction of a read is one of four. -/
theorem transaction_of_readsOnly {i : Instr} (h : readsOnly i = true) :
    (∀ slot off x, i ≠ .sccRegionWrite slot off x) ∧
    ((∃ a, i.transaction = .resolve a) ∨ (∃ p, i.transaction = .isExp p) ∨
      (∃ slot p o, i.transaction = .translate slot p o) ∨ ∃ a, i.transaction = .busRead a) := by
  cases i with
  | resolve | isExp | translate | busRead | sccRegionRead
  | konamiWin0Read | konamiWin1Read | konamiWin2Read | konamiWin3Read
  | sccWin0Read | sccWin1Read | sccWin2Read | sccWin3Read
  | ascii8Win0Read | ascii8Win1Read | ascii8Win2Read | ascii8Win3Read
  | ascii16Win0Read | ascii16Win1Read => simp [Instr.transaction]
  | select | register | unregister | write | busWrite | reset
  | konamiSel1 | konamiSel2 | konamiSel3 | sccSel0 | sccSel1 | sccSel2 | sccSccOn | sccSel3
  | ascii8Sel0 | ascii8Sel1 | ascii8Sel2 | ascii8Sel3 | ascii16Sel0 | ascii16Sel1
  | sccRegionWrite => simp [readsOnly] at h

theorem exec_of_readsOnly {i : Instr} (h : readsOnly i = true) {s t : State} (hexec : exec i s = .next t) :
    t.blk = s.blk ∧ t.deliveries = s.deliveries ∧ t.images = s.images := by
  obtain ⟨hi, htxn⟩ := transaction_of_readsOnly h
  rw [exec_eq_exec_transaction hi] at hexec
  rcases htxn with ⟨a, e⟩ | ⟨p, e⟩ | ⟨slot, p, o, e⟩ | ⟨a, e⟩ <;> rw [e] at hexec <;>
    obtain rfl := Host.Outcome.next.inj hexec
  · exact ⟨rfl, rfl, rfl⟩
  · exact ⟨rfl, rfl, rfl⟩
  · exact ⟨rfl, rfl, rfl⟩
  · exact ⟨memRead_blk .., memRead_deliveries .., memRead_images ..⟩

/-- Settles O47: a block that differs is not the case `same` of `BlockStep`, and each other case is a writer. -/
theorem blockChangesOnlyByItsWriters : Obligations.BlockChangesOnlyByItsWriters := by
  intro i s
  obtain ⟨t, hexec, hstep⟩ := exec_blockStep i s
  refine ⟨t, hexec, fun h => exec_of_readsOnly h hexec, ?_⟩
  generalize t.blk = b at hstep
  intro hne
  cases hstep with
  | same => exact absurd rfl hne
  | select p x hi => exact .inl ⟨p, x, hi⟩
  | register slot v n w hi => exact .inr (.inl ⟨slot, v, n, hi⟩)
  | unregister slot hi => exact .inr (.inr (.inl ⟨slot, hi⟩))
  | reset e hi => exact .inr (.inr (.inr (.inl ⟨e, hi⟩)))
  | write slot a x m r hi hm hd => exact .inr (.inr (.inr (.inr ⟨slot, a, x, m, r, hi, hm, hd⟩)))

end Sys2Proof.Machine
